-- ==== Sys2Proof/Word.lean ====
section
/-! DEFINITION. The machine's words: a 64-bit register value, a 32-bit instruction word, a byte, a register number. -/

namespace Sys2Proof

/-- A general register, FPSR or the pc: 64 bits (R3, R36, R37). -/
abbrev Word := BitVec 64

/-- An instruction word (R55). -/
abbrev InstrWord := BitVec 32

/-- A byte of the program text (R55). -/
abbrev Byte := BitVec 8

/-- The `Rt` field, 0 to 31: 0 to 30 name X0 to X30, 31 names XZR (R57). -/
abbrev RegNum := BitVec 5

end Sys2Proof
end

