-- ==== Sys2Proof/Syntax.lean ====
section
/-! DEFINITION. The instructions of spec/opcode_table.json: two rows, two constructors (R58). -/

namespace Sys2Proof

/-- The two direct accesses of FPSR. The operand is the number `t` of `Xt` (R57). -/
inductive Instr where
  /-- `MRS <Xt>, FPSR`: read FPSR into `Xt` (R63). -/
  | mrsFpsr (t : RegNum)
  /-- `MSR FPSR, <Xt>`: write `Xt` to FPSR (R64). -/
  | msrFpsr (t : RegNum)
  deriving DecidableEq, Repr

/-- The operand register of either instruction (R57). -/
def Instr.rt : Instr → RegNum
  | .mrsFpsr t => t
  | .msrFpsr t => t

end Sys2Proof
end

