-- ==== Sys2Proof/Decode.lean ====
section
/-! DEFINITION. From bytes to instructions and back (R54 to R60). The decoder is total and rejects by name. -/

namespace Sys2Proof

/-- Why a decoder gives no instruction. -/
inductive DecodeReject where
  /-- Fewer than the four bytes of an instruction word (R55: there is no other length). -/
  | truncated
  /-- The fixed bits 31:22 or bit 20 are not those of the system-register move format (R55). -/
  | notSystemRegisterMove
  /-- A system-register move whose selector (o0, op1, CRn, CRm, op2) is not FPSR's (R54, R58). -/
  | otherSystemRegister (o0 : BitVec 1) (op1 : BitVec 3) (crn crm : BitVec 4) (op2 : BitVec 3)
  deriving DecidableEq, Repr

/-- Four bytes as a word, the least significant first (R55). -/
def wordOfBytes (b0 b1 b2 b3 : Byte) : InstrWord :=
  b3 ++ b2 ++ b1 ++ b0

/-- A word as four bytes, the least significant first (R55). -/
def bytesOfWord (w : InstrWord) : List Byte :=
  [w.extractLsb' 0 8, w.extractLsb' 8 8, w.extractLsb' 16 8, w.extractLsb' 24 8]

/-- Bits 31:22, the fixed bits of the format (R55). -/
def fixedField (w : InstrWord) : BitVec 10 := w.extractLsb' 22 10

/-- Bit 21, `L`: 1 for MRS, 0 for MSR (R55, R56). -/
def dirField (w : InstrWord) : BitVec 1 := w.extractLsb' 21 1

/-- Bit 20, the high bit of op0, 1 in this format (R55). -/
def op0HighField (w : InstrWord) : BitVec 1 := w.extractLsb' 20 1

/-- Bit 19, `o0`, the low bit of op0 (R55). -/
def o0Field (w : InstrWord) : BitVec 1 := w.extractLsb' 19 1

/-- Bits 18:16 (R55). -/
def op1Field (w : InstrWord) : BitVec 3 := w.extractLsb' 16 3

/-- Bits 15:12 (R55). -/
def crnField (w : InstrWord) : BitVec 4 := w.extractLsb' 12 4

/-- Bits 11:8 (R55). -/
def crmField (w : InstrWord) : BitVec 4 := w.extractLsb' 8 4

/-- Bits 7:5 (R55). -/
def op2Field (w : InstrWord) : BitVec 3 := w.extractLsb' 5 3

/-- Bits 4:0, the operand (R55, R57). -/
def rtField (w : InstrWord) : RegNum := w.extractLsb' 0 5

/-- The word's selector is FPSR's: op0 = 0b11, op1 = 0b011, CRn = 0b0100, CRm = 0b0100, op2 = 0b001 (R54; the high bit of op0
is the format's bit 20, R55). -/
def selectsFpsr (w : InstrWord) : Bool :=
  o0Field w == 0b1 && op1Field w == 0b011 && crnField w == 0b0100 && crmField w == 0b0100 && op2Field w == 0b001

/-- The instruction a word is (R55 to R58). -/
def decodeWord (w : InstrWord) : Except DecodeReject Instr :=
  if fixedField w == 0b1101010100 && op0HighField w == 0b1 then
    if selectsFpsr w then
      if dirField w == 0b1 then .ok (.mrsFpsr (rtField w)) else .ok (.msrFpsr (rtField w))
    else .error (.otherSystemRegister (o0Field w) (op1Field w) (crnField w) (crmField w) (op2Field w))
  else .error .notSystemRegisterMove

/-- The first instruction of a list of bytes, with the bytes after it (R55, R60). -/
def decode : List Byte → Except DecodeReject (Instr × List Byte)
  | b0 :: b1 :: b2 :: b3 :: rest =>
    match decodeWord (wordOfBytes b0 b1 b2 b3) with
    | .ok i => .ok (i, rest)
    | .error e => .error e
  | _ => .error .truncated

/-- The direction bit of an instruction (R55, R56). -/
def Instr.dirBit : Instr → BitVec 1
  | .mrsFpsr _ => 0b1
  | .msrFpsr _ => 0b0

/-- The word of an instruction, field by field from R55's table: fixed bits, L, 1, o0, op1, CRn, CRm, op2, Rt. -/
def encodeWord (i : Instr) : InstrWord :=
  0b1101010100#10 ++ i.dirBit ++ 0b1#1 ++ 0b1#1 ++ 0b011#3 ++ 0b0100#4 ++ 0b0100#4 ++ 0b001#3 ++ i.rt

/-- The bytes of an instruction as they stand in memory (R55). -/
def encode (i : Instr) : List Byte :=
  bytesOfWord (encodeWord i)

/-- The instruction the decoder reads from an instruction whose bits are `w`, numbered as spec/opcode_table.json numbers them,
the bits above `nbits` zero. -/
def decodeTableWord (nbits w : Nat) : Option Instr :=
  match decode (bytesOfWord (BitVec.ofNat 32 (w % 2 ^ nbits))) with
  | .ok (i, _) => some i
  | .error _ => none

end Sys2Proof
end

