-- ==== Sys2Proof/Config.lean ====
section
/-! DEFINITION. What an implementation fixes (the parameters of R4, R5, R7, R8 and the continuation of R95), and the free
values: opaque constants of which nothing can be proved. -/

namespace Sys2Proof

/-- How a RES0 bit behaves on a direct read (R8, R28). -/
inductive Res0Policy where
  /-- The bit reads 0. -/
  | razWi
  /-- The bit reads the stored value. -/
  | stored
  /-- Each read returns 0 or the stored value, drawn afresh per read and per bit. -/
  | any
  deriving DecidableEq, Repr

/-- What `AArch64.SystemAccessTrap` leads to. R95 admits both: the outcome is terminal under the spec alone, and a
surrounding model with the architecture's exception mechanism continues by R103. DESIGN CHOICE, log 9. -/
inductive TrapEntry where
  /-- The trap ends the run as a fault that reports the target level, the code and the pc (R89, R95). -/
  | terminal
  /-- The trap is taken as R103 describes (PRESUMED by the spec, GK9). -/
  | taken
  deriving DecidableEq, Repr

/-- The implementation parameters. They are fixed for the life of a machine (R113); they stand in `State` so that a statement
about every state is a statement about every implementation (log 1). -/
structure Config where
  /-- AArch32 is supported at some Exception level and AArch32 floating-point is implemented: N, Z, C, V exist (R4). -/
  haveAArch32FP : Bool
  /-- `HaveEL(EL3)` (R5). -/
  haveEL3 : Bool
  /-- `boolean IMPLEMENTATION_DEFINED "EL3 trap priority when SDD == '1'"` (R7). -/
  impDefEL3TrapPrioritySDD : Bool
  /-- How a RES0 bit reads (R8). -/
  res0Policy : Res0Policy
  /-- Which continuation of R95 a trap has (log 9). -/
  trapEntry : TrapEntry
  deriving DecidableEq, Repr

/-- FREE VALUE: bit i of the n-th draw chooses what RES0 bit i reads under `Res0Policy.any`: 0 where it is 0, the stored bit
where it is 1 (R28). Safe. Log 7. -/
opaque Config.res0Draw : Nat → Word

/-- FREE VALUE: bit i of the n-th draw chooses whether an untrapped cumulative bit i is recorded by an instruction that also
raises a trapped exception (R81). Safe. Log 8. -/
opaque Config.untrappedDraw : Nat → Word

/-- FREE VALUE: FPSR after reset, "an architecturally UNKNOWN value" in every field (R38) and a draw in every RES0 bit (R40).
Safe. Log 2. -/
opaque Config.resetFPSR : Word

/-- FREE VALUE: general register n after reset, "a draw" (R36). Safe. Log 3. -/
opaque Config.resetX : Nat → Word

end Sys2Proof
end

