-- ==== Sys2Proof/Machine/State.lean ====
section
/-! DEFINITION. The state of the machine as plain data, the faults and refusals, and the state after reset. -/

namespace Sys2Proof.Machine

/-- The four Exception levels, the values of `PSTATE.EL` (R35). -/
inductive EL where
  | el0 | el1 | el2 | el3
  deriving DecidableEq, Repr

/-- The target level of a trap: EL1, EL2 or EL3 (R89). -/
inductive TrapTarget where
  | el1 | el2 | el3
  deriving DecidableEq, Repr

/-- The eleven named fields of FPSR (R13). -/
inductive FpsrField where
  | n | z | c | v | qc | idc | ixc | ufc | ofc | dzc | ioc
  deriving DecidableEq, Repr

/-- The six floating-point exceptions (R73): IO, DZ, OF, UF, IX, ID. -/
inductive FPException where
  | invalidOperation | divideByZero | overflow | underflow | inexact | inputDenormal
  deriving DecidableEq, Repr

/-- The named fields of PSTATE: the current Exception level (R35) and the flags that AArch64 floating-point comparisons set
instead of FPSR's (R85). -/
structure PState where
  el : EL
  n : Bool
  z : Bool
  c : Bool
  v : Bool
  deriving DecidableEq, Repr

/-- The six trap enables of FPCR (R31). -/
structure FPCR where
  ioe : Bool
  dze : Bool
  ofe : Bool
  ufe : Bool
  ixe : Bool
  ide : Bool
  deriving DecidableEq, Repr

/-- The inputs of R31 to R34: state of the rest of the machine that the rules read and no rule writes. -/
structure Inputs where
  /-- The FPCR trap enables (R31). -/
  fpcr : FPCR
  /-- "Flush-to-zero is enabled" (R31). -/
  flushToZeroEnabled : Bool
  /-- `CPACR_EL1.FPEN` (R32). -/
  cpacrEL1FPEN : BitVec 2
  /-- `CPTR_EL2.FPEN` (R32). -/
  cptrEL2FPEN : BitVec 2
  /-- `CPTR_EL2.TFP` (R32). -/
  cptrEL2TFP : Bool
  /-- `CPTR_EL3.TFP` (R32). -/
  cptrEL3TFP : Bool
  /-- `HCR_EL2.E2H` (R32). -/
  hcrEL2E2H : Bool
  /-- `HCR_EL2.TGE` (R32). -/
  hcrEL2TGE : Bool
  /-- `EL2Enabled()` (R6, R33). -/
  el2Enabled : Bool
  /-- `Halted()` (R34). -/
  halted : Bool
  /-- `EDSCR.SDD` (R34). -/
  edscrSDD : Bool
  deriving DecidableEq, Repr

/-- What an exception taken to a level saves and where it goes (R103). -/
structure ExcBank where
  /-- `ELR_ELx`, the preferred return address. -/
  elr : Word
  /-- `SPSR_ELx`, the PSTATE of the trapped code (log 10). -/
  spsr : PState
  /-- `ESR_ELx`, the syndrome (log 10). -/
  esr : Word
  /-- The address of "the synchronous-exception vector of the target level"; no source gives it, so it is an input (log 11). -/
  syncVector : Word
  deriving DecidableEq, Repr

/-- The exception registers of the three levels a trap can target (R103). -/
structure ExcRegs where
  el1 : ExcBank
  el2 : ExcBank
  el3 : ExcBank
  deriving DecidableEq, Repr

/-- The event record of one instruction, or of one lane of it (R73). -/
structure EventRecord where
  /-- `IO`: Invalid Operation occurred. -/
  io : Bool
  /-- `DZ`: Divide by Zero occurred. -/
  dz : Bool
  /-- `OF`: Overflow occurred. -/
  overflow : Bool
  /-- `UF`: Underflow occurred. -/
  uf : Bool
  /-- `IX`: Inexact occurred. -/
  ix : Bool
  /-- `ID`: Input Denormal occurred. -/
  idn : Bool
  /-- `Sat`: an Advanced SIMD integer operation saturated. -/
  sat : Bool
  deriving DecidableEq, Repr

/-- The classes of instruction R73 and R87 tell apart. -/
inductive InstrClass where
  /-- A scalar floating-point instruction. -/
  | scalarFP
  /-- An Advanced SIMD floating-point instruction. -/
  | advSimdFP
  /-- An Advanced SIMD integer operation. -/
  | advSimdInt
  /-- Any other instruction of the surrounding model. -/
  | other
  deriving DecidableEq, Repr

/-- The result of an AArch64 floating-point comparison, which goes to PSTATE (R85). -/
structure CompareFlags where
  n : Bool
  z : Bool
  c : Bool
  v : Bool
  deriving DecidableEq, Repr

/-- One executed instruction of the surrounding model, as R73 and R114 have that model supply it: its class, the events of
each of its lanes (one lane for a scalar instruction, R83), and its own results. DESIGN CHOICE, log 15. -/
structure SuppliedStep where
  cls : InstrClass
  /-- The events, lane by lane (R83). -/
  lanes : List EventRecord
  /-- The flags of an AArch64 floating-point comparison (R85). -/
  compare : Option CompareFlags
  /-- Its writes to general registers, in order. -/
  xWrites : List (RegNum × Word)
  /-- Where it leaves the pc, "by its own rules" (R37). -/
  nextPC : Word
  deriving DecidableEq, Repr

/-- The two resets (R42). -/
inductive ResetKind where
  | warm | cold
  deriving DecidableEq, Repr

/-- What one reset event leaves: each piece of state for which R105 and R106 admit any value, at the value drawn (log 18). -/
structure ResetDraw where
  fpsr : Word
  x : Vector Word 31
  pc : Word
  pstate : PState
  inputs : Inputs
  exc : ExcRegs
  deriving DecidableEq, Repr

/-- The interactions of the environment that R113 admits. -/
inductive EnvAction where
  /-- A Warm or Cold reset. -/
  | reset (kind : ResetKind) (draw : ResetDraw)
  /-- A change of inputs of R31 to R35, `PSTATE.EL` among them (R113). That it may also change PSTATE.N, Z, C and V, which R113
  does not list, is the model's choice (DESIGN CHOICE, log 26). -/
  | changeInputs (inputs : Inputs) (pstate : PState)
  deriving DecidableEq, Repr

/-- Who moves next: the PE executes an instruction, or the environment acts between two steps (R113, log 17). -/
inductive Turn where
  | pe
  | environment (action : EnvAction)
  deriving DecidableEq, Repr

/-- The program text: bytes at addresses (R53, R55, R114), addresses strictly rising. An unlisted address has no value
(log 13). -/
abbrev Memory := List Host.Cell

/-- The machine. -/
structure State where
  /-- The implementation parameters (R4, R5, R7, R8, log 1, log 9). -/
  config : Config
  /-- X0 to X30 (R36). -/
  x : Vector Word 31
  /-- The address of the instruction being executed (R37). -/
  pc : Word
  /-- The stored FPSR, all 64 bits (R13, R28). -/
  fpsr : Word
  /-- PSTATE (R35, R85). -/
  pstate : PState
  /-- The inputs of R31 to R34. -/
  inputs : Inputs
  /-- The exception registers (R103). -/
  exc : ExcRegs
  /-- The program text (R53, R114). -/
  mem : Memory
  /-- The steps the surrounding model supplies, the next one first (R73, log 15). -/
  supplied : List SuppliedStep
  /-- Who moves next, the next one first; the PE moves where the list is empty (R113, log 17). -/
  turns : List Turn
  /-- How many free values have been drawn (the model's own counter, log 7). -/
  draws : Nat
  deriving DecidableEq, Repr

/-- The reasons the machine stops with a fault (R114 b). -/
inductive Fault where
  /-- `AArch64.SystemAccessTrap(target, ec)` at the instruction at `pc`, where `config.trapEntry` is `terminal` (R89, R95).
  Raised by the access check of both instructions. Safe. -/
  | systemAccessTrap (target : TrapTarget) (ec : BitVec 6) (pc : Word)
  /-- `UNDEFINED` in Debug state at the instruction at `pc` (R90). Raised by the access check of both instructions. Safe. -/
  | undefined (pc : Word)
  /-- Floating-point exceptions `kinds` whose trap enable is 1 occurred in the surrounding model's instruction at `pc`, and left
  the stored FPSR at `fpsr` (R81, R101). Raised by a supplied step. Safe. -/
  | trappedFPException (kinds : List FPException) (fpsr : Word) (pc : Word)
  deriving DecidableEq, Repr

/-- The reasons the machine has no step (R114 a and c). -/
inductive Refusal where
  /-- The instruction has no meaning in the model yet. No arm raises it. Safe. -/
  | notModelled (mnemonic : String)
  /-- The pc is no multiple of 4 (R48). Raised by the fetch. Safe. -/
  | misalignedPC
  /-- The program stands across the top of the address space (R37). Raised by the fetch. Safe. -/
  | programAcrossTop
  /-- The pc is the address just past the last word: the run is final (R114 a). Raised by the fetch. Safe. -/
  | endOfProgram
  /-- No instruction word stands at the pc (R114 c). Raised by the fetch. Safe. -/
  | noWordAtPC
  /-- The word is no FPSR access and the surrounding model supplies no step for it (R58, R114 c). Safe. -/
  | notFPSRAccess (word : InstrWord)
  /-- The supplied step's events contradict its class (R73). Safe. -/
  | illFormedSupply
  deriving DecidableEq, Repr

/-- The machine after reset. No source gives a reset value but UNKNOWN for FPSR: FPSR and the general registers are free values
(log 2, log 3); the other values are the starting state that section 8 of 95_test_vectors.md names, and zero (DESIGN CHOICE,
logs 1, 4, 5, 6). `State.applyReset` is the reset event itself, with any admitted values. -/
def State.reset : State where
  config :=
    { haveAArch32FP := true, haveEL3 := false, impDefEL3TrapPrioritySDD := false, res0Policy := .any, trapEntry := .taken }
  x := #v[Config.resetX 0, Config.resetX 1, Config.resetX 2, Config.resetX 3, Config.resetX 4, Config.resetX 5,
    Config.resetX 6, Config.resetX 7, Config.resetX 8, Config.resetX 9, Config.resetX 10, Config.resetX 11,
    Config.resetX 12, Config.resetX 13, Config.resetX 14, Config.resetX 15, Config.resetX 16, Config.resetX 17,
    Config.resetX 18, Config.resetX 19, Config.resetX 20, Config.resetX 21, Config.resetX 22, Config.resetX 23,
    Config.resetX 24, Config.resetX 25, Config.resetX 26, Config.resetX 27, Config.resetX 28, Config.resetX 29,
    Config.resetX 30]
  pc := 0
  fpsr := Config.resetFPSR
  pstate := { el := .el1, n := false, z := false, c := false, v := false }
  inputs :=
    { fpcr := { ioe := false, dze := false, ofe := false, ufe := false, ixe := false, ide := false }
      flushToZeroEnabled := false
      cpacrEL1FPEN := 0b11, cptrEL2FPEN := 0b00, cptrEL2TFP := false, cptrEL3TFP := false
      hcrEL2E2H := false, hcrEL2TGE := false, el2Enabled := false, halted := false, edscrSDD := false }
  exc :=
    { el1 := { elr := 0, spsr := { el := .el0, n := false, z := false, c := false, v := false }, esr := 0, syncVector := 0 }
      el2 := { elr := 0, spsr := { el := .el0, n := false, z := false, c := false, v := false }, esr := 0, syncVector := 0 }
      el3 := { elr := 0, spsr := { el := .el0, n := false, z := false, c := false, v := false }, esr := 0, syncVector := 0 } }
  mem := []
  supplied := []
  turns := []
  draws := 0

end Sys2Proof.Machine
end

