-- ==== Sys2Proof/Machine/Ops.lean ====
section
/-! DEFINITION. The named operations: field updates, the program text, fetching a word, taking a trap, and reset. -/

namespace Sys2Proof.Machine

/-- What one step or one meaning answers. -/
abbrev Result := Host.Outcome State Fault Refusal

/-! ### Field updates -/

def State.setX (s : State) (x : Vector Word 31) : State := { s with x := x }
def State.setPc (s : State) (pc : Word) : State := { s with pc := pc }
def State.setFpsr (s : State) (w : Word) : State := { s with fpsr := w }
def State.setPstate (s : State) (p : PState) : State := { s with pstate := p }
def State.setInputs (s : State) (i : Inputs) : State := { s with inputs := i }
def State.setExc (s : State) (e : ExcRegs) : State := { s with exc := e }
def State.setMem (s : State) (m : Memory) : State := { s with mem := m }
def State.setSupplied (s : State) (q : List SuppliedStep) : State := { s with supplied := q }
def State.setTurns (s : State) (q : List Turn) : State := { s with turns := q }
def State.setDraws (s : State) (n : Nat) : State := { s with draws := n }

/-- `pc <- pc + 4`, modulo 2^64 (R37). -/
def State.advancePc (s : State) : State := s.setPc (s.pc + 4)

/-! ### The program text (R53, R55, R114) -/

/-- The byte at an address; none where nothing is listed (log 13). -/
def Memory.read (a : Nat) : Memory → Option Byte
  | [] => none
  | (a', b') :: rest => if a = a' then some b' else Memory.read a rest

/-- List a byte at an address, keeping the addresses strictly rising. Only loading a program does so: no rule writes memory
(R45). -/
def Memory.write (a : Nat) (b : Byte) : Memory → Memory
  | [] => [(a, b)]
  | (a', b') :: rest =>
    if a < a' then (a, b) :: (a', b') :: rest
    else if a = a' then (a, b) :: rest
    else (a', b') :: Memory.write a b rest

/-- Addresses rise strictly, start at `lo` or above and stay below 2^64. -/
def Memory.risingFrom (lo : Nat) : Memory → Bool
  | [] => true
  | (a, _) :: rest => decide (lo ≤ a) && decide (a < 2 ^ 64) && Memory.risingFrom (a + 1) rest

/-- The canonical form: addresses strictly rising and inside the address space. -/
def Memory.wf (m : Memory) : Bool := Memory.risingFrom 0 m

/-- The highest listed address. -/
def Memory.lastAddr : Memory → Option Nat
  | [] => none
  | [(a, _)] => some a
  | _ :: c :: rest => Memory.lastAddr (c :: rest)

/-- The text lists both the last and the first byte of the address space: it stands across the top (R37). -/
def Memory.acrossTop (m : Memory) : Bool :=
  (Memory.read (2 ^ 64 - 1) m).isSome && (Memory.read 0 m).isSome

/-- A list of bytes at consecutive addresses, modulo 2^64: past the top of the address space they go on at 0, and the text then
stands across the top, which the fetch refuses (R37). -/
def Memory.writeBytes (a : Nat) : List Byte → Memory → Memory
  | [], m => m
  | b :: rest, m => Memory.writeBytes (a + 1) rest (Memory.write (a % 2 ^ 64) b m)

/-- A list of words at consecutive 4-byte addresses, modulo 2^64, each least significant byte first (R37, R55, R114). -/
def Memory.writeWords (a : Nat) : List InstrWord → Memory → Memory
  | [], m => m
  | w :: rest, m => Memory.writeWords (a + 4) rest (Memory.writeBytes a (bytesOfWord w) m)

/-- Load a program: a finite list of words at consecutive addresses starting at the entry pc (R114). -/
def State.loadProgram (s : State) (entry : Word) (words : List InstrWord) : State :=
  (s.setMem (Memory.writeWords entry.toNat words [])).setPc entry

/-! ### Fetch (R45, R48, R114) -/

/-- The four bytes at an address, where all four are listed. -/
def Memory.readWordBytes (a : Nat) (m : Memory) : Option (Byte × Byte × Byte × Byte) :=
  match Memory.read a m, Memory.read (a + 1) m, Memory.read (a + 2) m, Memory.read (a + 3) m with
  | some b0, some b1, some b2, some b3 => some (b0, b1, b2, b3)
  | _, _, _, _ => none

/-- The pc is the address just past the last word: the end of the run is final (R114 a). -/
def State.atEnd (s : State) : Bool :=
  match Memory.lastAddr s.mem with
  | some a => s.pc.toNat == (a + 1) % 2 ^ 64
  | none => false

/-- The bytes of the instruction at the pc. A misaligned pc (R48) and a program across the top of the address space (R37) are
refused. -/
def State.fetch (s : State) : Except Refusal (List Byte) :=
  if s.pc.toNat % 4 ≠ 0 then .error .misalignedPC
  else if Memory.acrossTop s.mem then .error .programAcrossTop
  else
    match Memory.readWordBytes s.pc.toNat s.mem with
    | some (b0, b1, b2, b3) => .ok [b0, b1, b2, b3]
    | none => if s.atEnd then .error .endOfProgram else .error .noWordAtPC

/-! ### Exception levels -/

/-- The Exception level a trap targets. -/
def TrapTarget.toEL : TrapTarget → EL
  | .el1 => .el1
  | .el2 => .el2
  | .el3 => .el3

/-- The number of an Exception level, EL0 the least privileged (R35, R94). -/
def EL.level : EL → Nat
  | .el0 => 0
  | .el1 => 1
  | .el2 => 2
  | .el3 => 3

/-- The exception registers of a level. -/
def ExcRegs.get (e : ExcRegs) : TrapTarget → ExcBank
  | .el1 => e.el1
  | .el2 => e.el2
  | .el3 => e.el3

/-- Replace the exception registers of a level. -/
def ExcRegs.set (e : ExcRegs) (t : TrapTarget) (b : ExcBank) : ExcRegs :=
  match t with
  | .el1 => { e with el1 := b }
  | .el2 => { e with el2 := b }
  | .el3 => { e with el3 := b }

/-! ### Taking a trap (R89, R95, R103) -/

/-- The ISS field, bits 24:0 of the syndrome: CV = 1 and COND = 0b1110 for code 0x07, 0 for code 0x00 (R103). -/
def syndromeISS (ec : BitVec 6) : BitVec 25 :=
  if ec = 0x07#6 then 0b1#1 ++ 0b1110#4 ++ 0#20 else 0

/-- The syndrome `ESR_ELx`: EC in bits 31:26, IL = 1 in bit 25, ISS in bits 24:0 (R103; the upper 32 bits are 0, log 10). -/
def syndrome (ec : BitVec 6) : Word :=
  0#32 ++ ec ++ 0b1#1 ++ syndromeISS ec

/-- "to EL2 instead of EL1 if EL2 is enabled and `HCR_EL2.TGE` is 1" (R103). -/
def Inputs.routeTrap (i : Inputs) (t : TrapTarget) : TrapTarget :=
  if t = .el1 ∧ i.el2Enabled = true ∧ i.hcrEL2TGE = true then .el2 else t

/-- `ELR_ELx`, `SPSR_ELx` and `ESR_ELx` of a trap (R103); the vector stays. -/
def ExcBank.saveTrap (b : ExcBank) (pc : Word) (p : PState) (ec : BitVec 6) : ExcBank :=
  { b with elr := pc, spsr := p, esr := syndrome ec }

/-- Take a synchronous exception to a level (R103): save the address of the trapped instruction, the PSTATE of the trapped code
and the syndrome in the registers of the level taken to, enter that level, continue at its synchronous-exception vector.
FPSR and the general registers stay (R89, R96). -/
def State.takeException (t : TrapTarget) (ec : BitVec 6) (s : State) : State :=
  { s with
    exc := s.exc.set (s.inputs.routeTrap t) ((s.exc.get (s.inputs.routeTrap t)).saveTrap s.pc s.pstate ec)
    pstate := { s.pstate with el := (s.inputs.routeTrap t).toEL }
    pc := (s.exc.get (s.inputs.routeTrap t)).syncVector }

/-- `raise SystemAccessTrap(target, ec)` (R89): terminal under the spec alone, or taken, as R95 admits (log 9). -/
def State.systemAccessTrap (t : TrapTarget) (ec : BitVec 6) (s : State) : Result :=
  match s.config.trapEntry with
  | .terminal => .fault (.systemAccessTrap t ec s.pc)
  | .taken => .next (s.takeException t ec)

/-- `raise Undefined()` (R90). -/
def State.raiseUndefined (s : State) : Result :=
  .fault (.undefined s.pc)

/-! ### Reset (R105, R106) -/

/-- A reset event, Warm or Cold alike (R42): FPSR, the general registers, the pc and every input take the values drawn. The
parameters (R113) and the program text (R53) stay. -/
def State.applyReset (_kind : ResetKind) (d : ResetDraw) (s : State) : State :=
  { s with fpsr := d.fpsr, x := d.x, pc := d.pc, pstate := d.pstate, inputs := d.inputs, exc := d.exc }

end Sys2Proof.Machine
end

