-- ==== Sys2Proof/Machine/Access.lean ====
section
/-! DEFINITION. The access check both instructions share (R65 to R69), arm by arm as the rules transcribe it. -/

namespace Sys2Proof.Machine

/-- The outcome of the check (R65). -/
inductive AccessOutcome where
  | allow
  | trap (target : TrapTarget) (ec : BitVec 6)
  | undef
  deriving DecidableEq, Repr

/-- The pattern `'x0'`: bit 0 is 0 (R10). -/
def matchesX0 (f : BitVec 2) : Bool := !f.getLsbD 0

/-- The first condition of the EL0, EL1 and EL2 arms (R66, R67, R68). -/
def debugUndef (c : Config) (i : Inputs) : Bool :=
  i.halted && c.haveEL3 && i.edscrSDD && c.impDefEL3TrapPrioritySDD && i.cptrEL3TFP

/-- The last conditions of the EL0, EL1 and EL2 arms (R66, R67, R68): the EL3 control, then the access. -/
def checkEL3Control (c : Config) (i : Inputs) : AccessOutcome :=
  if c.haveEL3 && i.cptrEL3TFP then
    if i.halted && i.edscrSDD then .undef else .trap .el3 0x07
  else .allow

/-- `CheckEL0()` (R66). -/
def checkEL0 (c : Config) (i : Inputs) : AccessOutcome :=
  if debugUndef c i then .undef
  else if !(i.el2Enabled && (i.hcrEL2E2H && i.hcrEL2TGE)) && i.cpacrEL1FPEN != 0b11 then
    if i.el2Enabled && i.hcrEL2TGE then .trap .el2 0x00 else .trap .el1 0x07
  else if i.el2Enabled && (i.hcrEL2E2H && i.hcrEL2TGE) && i.cptrEL2FPEN != 0b11 then .trap .el2 0x07
  else if i.el2Enabled && i.hcrEL2E2H && matchesX0 i.cptrEL2FPEN then .trap .el2 0x07
  else if i.el2Enabled && !i.hcrEL2E2H && i.cptrEL2TFP then .trap .el2 0x07
  else checkEL3Control c i

/-- `CheckEL1()` (R67). -/
def checkEL1 (c : Config) (i : Inputs) : AccessOutcome :=
  if debugUndef c i then .undef
  else if matchesX0 i.cpacrEL1FPEN then .trap .el1 0x07
  else if i.el2Enabled && !i.hcrEL2E2H && i.cptrEL2TFP then .trap .el2 0x07
  else if i.el2Enabled && i.hcrEL2E2H && matchesX0 i.cptrEL2FPEN then .trap .el2 0x07
  else checkEL3Control c i

/-- `CheckEL2()` (R68). -/
def checkEL2 (c : Config) (i : Inputs) : AccessOutcome :=
  if debugUndef c i then .undef
  else if !i.hcrEL2E2H && i.cptrEL2TFP then .trap .el2 0x07
  else if i.hcrEL2E2H && matchesX0 i.cptrEL2FPEN then .trap .el2 0x07
  else checkEL3Control c i

/-- `CheckEL3()` (R69). -/
def checkEL3 (i : Inputs) : AccessOutcome :=
  if i.cptrEL3TFP then .trap .el3 0x07 else .allow

/-- `CheckFPSRAccess()` (R65): a function of the inputs alone, the same for a read and a write. -/
def checkFpsrAccess (c : Config) (el : EL) (i : Inputs) : AccessOutcome :=
  match el with
  | .el0 => checkEL0 c i
  | .el1 => checkEL1 c i
  | .el2 => checkEL2 c i
  | .el3 => checkEL3 i

/-- The check at the machine's own level and inputs, sampled once (R72). -/
def State.checkAccess (s : State) : AccessOutcome :=
  checkFpsrAccess s.config s.pstate.el s.inputs

/-- A direct access (R63, R64, R72): the check, then, if it allows the access, the move `act` and `pc <- pc + 4`; otherwise the
outcome alone. -/
def State.accessFpsr (act : State → State) (s : State) : Result :=
  match s.checkAccess with
  | .allow => .next (act s).advancePc
  | .trap t ec => s.systemAccessTrap t ec
  | .undef => s.raiseUndefined

end Sys2Proof.Machine
end

