-- ==== Sys2Proof/Machine/Flags.lean ====
section
/-! DEFINITION. The fields of FPSR (R13), the direct read with its RES0 bits (R28), and every implicit update (R73 to R86). -/

namespace Sys2Proof.Machine

/-! ### Layout (R13) -/

/-- The bit of each named field (R13). -/
def FpsrField.bit : FpsrField → Nat
  | .n => 31
  | .z => 30
  | .c => 29
  | .v => 28
  | .qc => 27
  | .idc => 7
  | .ixc => 4
  | .ufc => 3
  | .ofc => 2
  | .dzc => 1
  | .ioc => 0

/-- N, Z, C, V exist only with AArch32 floating-point; the other fields always (R4, R13). -/
def FpsrField.present (c : Config) : FpsrField → Bool
  | .n => c.haveAArch32FP
  | .z => c.haveAArch32FP
  | .c => c.haveAArch32FP
  | .v => c.haveAArch32FP
  | _ => true

/-- A cumulative bit: hardware only sets it, software writes it (R74). -/
def FpsrField.cumulative : FpsrField → Bool
  | .n => false
  | .z => false
  | .c => false
  | .v => false
  | _ => true

/-- `FPSR.F`: the value of a field (R9, R11). -/
def FpsrField.of (w : Word) (f : FpsrField) : Bool := w.getLsbD f.bit

/-- FIELD_MASK (R13). -/
def fieldMask (c : Config) : Word :=
  if c.haveAArch32FP then 0x00000000F800009F else 0x000000000800009F

/-- RES0_MASK, its complement (R13). -/
def res0Mask (c : Config) : Word :=
  if c.haveAArch32FP then 0xFFFFFFFF07FFFF60 else 0xFFFFFFFFF7FFFF60

/-! ### The direct read (R28) -/

/-- `ReadFPSR()`: fields as stored, RES0 bits as the policy says, `draw` choosing under `any`. -/
def readFpsrWith (c : Config) (draw w : Word) : Word :=
  match c.res0Policy with
  | .razWi => w &&& fieldMask c
  | .stored => w
  | .any => (w &&& fieldMask c) ||| (w &&& res0Mask c &&& draw)

/-- What a direct read of FPSR returns now (R28); under `any` its draw is the next free value (log 7). -/
def State.readFpsr (s : State) : Word :=
  readFpsrWith s.config (Config.res0Draw s.draws) s.fpsr

/-! ### Events (R73, R83) -/

/-- The event field of an exception (R73). -/
def EventRecord.occurred (e : EventRecord) : FPException → Bool
  | .invalidOperation => e.io
  | .divideByZero => e.dz
  | .overflow => e.overflow
  | .underflow => e.uf
  | .inexact => e.ix
  | .inputDenormal => e.idn

/-- The trap enable of an exception (R31). -/
def FPCR.enable (f : FPCR) : FPException → Bool
  | .invalidOperation => f.ioe
  | .divideByZero => f.dze
  | .overflow => f.ofe
  | .underflow => f.ufe
  | .inexact => f.ixe
  | .inputDenormal => f.ide

/-- The cumulative bit of an exception (R75 to R80). -/
def FPException.field : FPException → FpsrField
  | .invalidOperation => .ioc
  | .divideByZero => .dzc
  | .overflow => .ofc
  | .underflow => .ufc
  | .inexact => .ixc
  | .inputDenormal => .idc

/-- The record of an instruction in which nothing occurred. -/
def EventRecord.none : EventRecord :=
  { io := false, dz := false, overflow := false, uf := false, ix := false, idn := false, sat := false }

/-- An event occurred in either. -/
def EventRecord.join (a b : EventRecord) : EventRecord :=
  { io := a.io || b.io, dz := a.dz || b.dz, overflow := a.overflow || b.overflow, uf := a.uf || b.uf,
    ix := a.ix || b.ix, idn := a.idn || b.idn, sat := a.sat || b.sat }

/-- The record of an instruction over lanes: an event field is true if the event occurred in any lane (R83). -/
def EventRecord.ofLanes : List EventRecord → EventRecord
  | [] => EventRecord.none
  | e :: rest => e.join (EventRecord.ofLanes rest)

/-! ### The update (R75 to R83) -/

/-- One bit, where a condition holds. -/
def bitIf (b : Bool) (n : Nat) : Word := if b then 1#64 <<< n else 0#64

/-- The bits an instruction sets, `set` of R83's UpdateFPSR: each event under its own condition (R75 to R80, R82). -/
def eventSet (ev : EventRecord) (f : FPCR) (flushToZero : Bool) : Word :=
  bitIf (ev.io && !f.ioe) 0
    ||| bitIf (ev.dz && !f.dze) 1
    ||| bitIf (ev.overflow && !f.ofe) 2
    ||| bitIf (ev.uf && (!f.ufe || flushToZero)) 3
    ||| bitIf (ev.ix && !f.ixe) 4
    ||| bitIf (ev.idn && !f.ide) 7
    ||| bitIf ev.sat 27

/-- `FPSR <- FPSR OR set` (R83). -/
def updateFpsr (ev : EventRecord) (f : FPCR) (flushToZero : Bool) (w : Word) : Word :=
  w ||| eventSet ev f flushToZero

/-- The exception occurred and its trap enable is 1, and, for Underflow, Flush-to-zero is not enabled (R81). -/
def EventRecord.trapped (ev : EventRecord) (f : FPCR) (flushToZero : Bool) (x : FPException) : Bool :=
  ev.occurred x && f.enable x && !(x == .underflow && flushToZero)

/-- `kinds`: the exceptions of an instruction that are trapped (R101). -/
def trappedKinds (ev : EventRecord) (f : FPCR) (flushToZero : Bool) : List FPException :=
  [.invalidOperation, .divideByZero, .overflow, .underflow, .inexact, .inputDenormal].filter
    (ev.trapped f flushToZero)

/-- FPSR after an instruction some of whose exceptions are trapped: QC as R82 says, each other bit the instruction would set
old or 1 as `draw` chooses (R81). -/
def updateFpsrTrapped (ev : EventRecord) (f : FPCR) (flushToZero : Bool) (draw w : Word) : Word :=
  w ||| (eventSet ev f flushToZero &&& draw) ||| bitIf ev.sat 27

/-- An AArch64 floating-point comparison sets the flags of PSTATE, not FPSR's (R85). -/
def PState.setCompare (p : PState) : Option CompareFlags → PState
  | none => p
  | some f => { p with n := f.n, z := f.z, c := f.c, v := f.v }

end Sys2Proof.Machine
end

