-- ==== Sys2Proof/Machine/Operands.lean ====
section
/-! DEFINITION. The one operand form: a general register `Xt` (R36, R57). -/

namespace Sys2Proof.Machine

/-- `x[t]`: register t, and 0 for t = 31, the zero register (R36). -/
def State.readX (s : State) (t : RegNum) : Word :=
  if h : t.toNat < 31 then s.x[t.toNat] else 0

/-- `x[t] <- v`: register t; a write to t = 31 is discarded (R36). -/
def State.writeX (s : State) (t : RegNum) (v : Word) : State :=
  if h : t.toNat < 31 then s.setX (s.x.set t.toNat v h) else s

/-- Several writes, in order: the general-register results of an instruction of the surrounding model. -/
def State.writeXs (s : State) : List (RegNum × Word) → State
  | [] => s
  | (t, v) :: rest => (s.writeX t v).writeXs rest

end Sys2Proof.Machine
end

