-- ==== Sys2Proof/Machine/SystemRegister.lean ====
section
/-! DEFINITION. The meanings of the two system-register moves of FPSR (R63, R64). -/

namespace Sys2Proof.Machine

/-- `x[t] <- ReadFPSR()`; the read takes one draw (R28, R63). -/
def State.moveFromFpsr (t : RegNum) (s : State) : State :=
  (s.writeX t s.readFpsr).setDraws (s.draws + 1)

/-- `FPSR <- x[t]`, all 64 bits (R64). -/
def State.moveToFpsr (t : RegNum) (s : State) : State :=
  s.setFpsr (s.readX t)

/-- `MRS <Xt>, FPSR` (R63). -/
def execMrsFpsr (t : RegNum) (s : State) : Result :=
  s.accessFpsr (State.moveFromFpsr t)

/-- `MSR FPSR, <Xt>` (R64). -/
def execMsrFpsr (t : RegNum) (s : State) : Result :=
  s.accessFpsr (State.moveToFpsr t)

end Sys2Proof.Machine
end

