-- ==== Sys2Proof/Machine/Dispatch.lean ====
section
/-! DEFINITION. One arm per instruction. -/

namespace Sys2Proof.Machine

def exec (i : Instr) (s : State) : Host.Outcome State Fault Refusal :=
  match i with
  | .mrsFpsr t => Sys2Proof.Machine.execMrsFpsr t s
  | .msrFpsr t => Sys2Proof.Machine.execMsrFpsr t s

end Sys2Proof.Machine
end

