-- ==== Sys2Proof/Machine/Environment.lean ====
section
/-! DEFINITION. What the environment can do between two steps (R113). -/

namespace Sys2Proof.Machine

/-- One interaction of the environment: a reset (R105), or a change of inputs, which the next step reads (R113). The change sets
the whole of PSTATE, its flags with its Exception level (DESIGN CHOICE, log 26). -/
def State.applyAction (a : EnvAction) (s : State) : State :=
  match a with
  | .reset kind d => s.applyReset kind d
  | .changeInputs i p => (s.setInputs i).setPstate p

end Sys2Proof.Machine
end

