-- ==== Sys2Proof/WellFormed.lean ====
section
/-! DEFINITION. Well-formedness. An `Instr` needs no check: its one operand is a `RegNum`, whose 32 values are exactly the 0 to 31
of R57, so no ill-formed instruction can be written. What can be ill formed is a step the surrounding model supplies, whose
events must agree with its class (R73, R85). -/

namespace Sys2Proof.Machine

/-- The class is one whose instructions raise floating-point exceptions (R73). -/
def InstrClass.isFloatingPoint : InstrClass → Bool
  | .scalarFP => true
  | .advSimdFP => true
  | .advSimdInt => false
  | .other => false

/-- Some floating-point exception occurred in the lane (R73). -/
def EventRecord.anyException (e : EventRecord) : Bool :=
  e.io || e.dz || e.overflow || e.uf || e.ix || e.idn

/-- R73: "For an instruction that is not a scalar or Advanced SIMD floating-point instruction the six exception fields are
false; for one that is not an Advanced SIMD integer operation Sat is false". -/
def EventRecord.agreesWith (cls : InstrClass) (e : EventRecord) : Bool :=
  (cls.isFloatingPoint || !e.anyException) && (cls == .advSimdInt || !e.sat)

/-- A supplied step is well formed: every lane's events agree with the class (R73), only a floating-point instruction is a
comparison (R85), and a scalar floating-point instruction has one lane (R83 gives several to Advanced SIMD only). -/
def SuppliedStep.wellFormed (st : SuppliedStep) : Bool :=
  st.lanes.all (EventRecord.agreesWith st.cls)
    && (st.compare.isNone || st.cls.isFloatingPoint)
    && (st.cls != .scalarFP || st.lanes.length == 1)

end Sys2Proof.Machine
end

