-- ==== Sys2Proof/Machine/Surrounding.lean ====
section
/-! DEFINITION. An instruction of the surrounding model: the implicit update of FPSR by floating-point and Advanced SIMD
instructions over the event record that model supplies (R73 to R88, log 15). -/

namespace Sys2Proof.Machine

/-- The event record of a supplied step, over all its lanes (R73, R83). -/
def SuppliedStep.event (st : SuppliedStep) : EventRecord := EventRecord.ofLanes st.lanes

/-- FPSR after the step, no exception being trapped (R83). -/
def State.fpsrAfter (s : State) (st : SuppliedStep) : Word :=
  updateFpsr st.event s.inputs.fpcr s.inputs.flushToZeroEnabled s.fpsr

/-- The step's trapped exceptions (R81, R101). -/
def State.trappedBy (s : State) (st : SuppliedStep) : List FPException :=
  trappedKinds st.event s.inputs.fpcr s.inputs.flushToZeroEnabled

/-- The step completes: FPSR, PSTATE's flags for a comparison (R85), the general-register results and the pc, all in one step
(R73); the step is used up. -/
def State.completeSupplied (s : State) (st : SuppliedStep) (rest : List SuppliedStep) : State :=
  ((((s.setFpsr (s.fpsrAfter st)).setPstate (s.pstate.setCompare st.compare)).writeXs st.xWrites).setPc
    st.nextPC).setSupplied rest

/-- Some exception is trapped: `TrappedFPException(kinds)`, with the untrapped bits drawn (R81, R101, log 8). -/
def State.trapSupplied (s : State) (st : SuppliedStep) : Result :=
  .fault (.trappedFPException (s.trappedBy st)
    (updateFpsrTrapped st.event s.inputs.fpcr s.inputs.flushToZeroEnabled (Config.untrappedDraw s.draws) s.fpsr) s.pc)

/-- Run one supplied step. -/
def State.runStep (s : State) (st : SuppliedStep) (rest : List SuppliedStep) : Result :=
  if st.wellFormed then
    if (s.trappedBy st).isEmpty then .next (s.completeSupplied st rest) else s.trapSupplied st
  else .refused .illFormedSupply

/-- A word that is no FPSR access: the surrounding model's next step, or a refusal where it supplies none (R58, R114 c). -/
def State.runSurrounding (s : State) (w : InstrWord) : Result :=
  match s.supplied with
  | [] => .refused (.notFPSRAccess w)
  | st :: rest => s.runStep st rest

end Sys2Proof.Machine
end

