-- ==== Sys2Proof/Machine/Cycle.lean ====
section
/-! DEFINITION. One instruction of the PE: fetch, decode, execute (R12, R45, R114). -/

namespace Sys2Proof.Machine

/-- The word of four fetched bytes, for the name of a refusal. -/
def fetchedWord : List Byte → InstrWord
  | [b0, b1, b2, b3] => wordOfBytes b0 b1 b2 b3
  | _ => 0

/-- The PE executes the instruction at the pc: one of the two FPSR accesses, or an instruction of the surrounding model. -/
def State.stepPE (s : State) : Result :=
  match s.fetch with
  | .error r => .refused r
  | .ok bytes =>
    match decode bytes with
    | .ok (i, _) => exec i s
    | .error _ => s.runSurrounding (fetchedWord bytes)

/-- Whoever's turn it is moves (R113): the environment between two steps, or the PE, which also moves where no turn is
scheduled. -/
def State.move (s : State) : Result :=
  match s.turns with
  | [] => s.stepPE
  | .pe :: rest => (s.setTurns rest).stepPE
  | .environment a :: rest => .next ((s.setTurns rest).applyAction a)

/-- Lay the bytes of an instruction where the next step fetches: at the pc, whose low two bits are cleared (R48), with no turn
of the environment before it. It stands for the loading of a program from outside (R53, log 24). -/
def State.placeWord (s : State) (w : InstrWord) : State :=
  let pc := s.pc &&& ~~~3#64
  ((s.setMem (Memory.writeBytes pc.toNat (bytesOfWord w) s.mem)).setPc pc).setTurns []

end Sys2Proof.Machine
end

