-- ==== Sys2Proof/Safety.lean ====
section
/-! DEFINITION. The terms claims use: when an access is enabled (R107), how a step ends a run (R114), and the invariant of the
machine. -/

namespace Sys2Proof.Machine

/-! ### When an access to FPSR is allowed (R107) -/

/-- R107's condition at EL2: (`E2H` = 0 and `CPTR_EL2.TFP` = 0) or (`E2H` = 1 and `CPTR_EL2.FPEN` is '01' or '11'). -/
abbrev Inputs.el2Allows (i : Inputs) : Prop :=
  (i.hcrEL2E2H = false ∧ i.cptrEL2TFP = false)
    ∨ (i.hcrEL2E2H = true ∧ (i.cptrEL2FPEN = 0b01 ∨ i.cptrEL2FPEN = 0b11))

/-- R107's EL3 condition: if EL3 is implemented, `CPTR_EL3.TFP` = 0. -/
abbrev el3Allows (c : Config) (i : Inputs) : Prop := c.haveEL3 = true → i.cptrEL3TFP = false

/-- EL2 is enabled with `E2H` = `TGE` = 1 (R66 arm 3). -/
abbrev Inputs.hostEL0 (i : Inputs) : Prop := i.el2Enabled = true ∧ i.hcrEL2E2H = true ∧ i.hcrEL2TGE = true

/-- R107: what the controls must be for an access to FPSR to be allowed at the current Exception level. Written from R107, not
from the check. -/
abbrev State.accessEnabled (s : State) : Prop :=
  (s.pstate.el = .el3 → s.inputs.cptrEL3TFP = false)
    ∧ (s.pstate.el = .el2 → s.inputs.el2Allows ∧ el3Allows s.config s.inputs)
    ∧ (s.pstate.el = .el1 →
        (s.inputs.cpacrEL1FPEN = 0b01 ∨ s.inputs.cpacrEL1FPEN = 0b11)
          ∧ (s.inputs.el2Enabled = true → s.inputs.el2Allows) ∧ el3Allows s.config s.inputs)
    ∧ (s.pstate.el = .el0 →
        (if s.inputs.hostEL0 then s.inputs.cptrEL2FPEN = 0b11 else s.inputs.cpacrEL1FPEN = 0b11)
          ∧ (s.inputs.el2Enabled = true → s.inputs.el2Allows) ∧ el3Allows s.config s.inputs)

/-! ### The conditions of the check's arms, in the words of R66 to R69 -/

/-- Arm (1): halted, EL3 implemented, `EDSCR.SDD` 1, the EL3 trap has priority, `CPTR_EL3.TFP` 1. -/
abbrev State.debugArm (s : State) : Prop :=
  s.inputs.halted = true ∧ s.config.haveEL3 = true ∧ s.inputs.edscrSDD = true
    ∧ s.config.impDefEL3TrapPrioritySDD = true ∧ s.inputs.cptrEL3TFP = true

/-- "EL2 is enabled and `HCR_EL2.TGE` is 1" (R66 arm 2). -/
abbrev Inputs.tgeRoutes (i : Inputs) : Prop := i.el2Enabled = true ∧ i.hcrEL2TGE = true

/-- `E2H` = 1 and `CPTR_EL2.FPEN` has bit 0 clear, '00' or '10'. -/
abbrev Inputs.el2FpenTraps (i : Inputs) : Prop :=
  i.hcrEL2E2H = true ∧ (i.cptrEL2FPEN = 0b00 ∨ i.cptrEL2FPEN = 0b10)

/-- `E2H` = 0 and `CPTR_EL2.TFP` = 1. -/
abbrev Inputs.el2TfpTraps (i : Inputs) : Prop := i.hcrEL2E2H = false ∧ i.cptrEL2TFP = true

/-- R66 arm (2): unless EL2 is enabled with `E2H` and `TGE` set, `CPACR_EL1.FPEN` is not '11'. -/
abbrev Inputs.el1TrapsEL0 (i : Inputs) : Prop := ¬ i.hostEL0 ∧ i.cpacrEL1FPEN ≠ 0b11

/-- R66 arms (3), (4), (5). -/
abbrev Inputs.el2TrapsEL0 (i : Inputs) : Prop :=
  (i.hostEL0 ∧ i.cptrEL2FPEN ≠ 0b11) ∨ (i.el2Enabled = true ∧ i.el2FpenTraps)
    ∨ (i.el2Enabled = true ∧ i.el2TfpTraps)

/-- R67 arm (2): `CPACR_EL1.FPEN` has bit 0 clear. -/
abbrev Inputs.el1TrapsEL1 (i : Inputs) : Prop := i.cpacrEL1FPEN = 0b00 ∨ i.cpacrEL1FPEN = 0b10

/-- R67 arms (3) and (4). -/
abbrev Inputs.el2TrapsEL1 (i : Inputs) : Prop :=
  (i.el2Enabled = true ∧ i.el2TfpTraps) ∨ (i.el2Enabled = true ∧ i.el2FpenTraps)

/-- R68 arms (2) and (3); `EL2Enabled()` is not tested at EL2. -/
abbrev Inputs.el2TrapsEL2 (i : Inputs) : Prop := i.el2TfpTraps ∨ i.el2FpenTraps

/-- EL3 is implemented and `CPTR_EL3.TFP` is 1. -/
abbrev State.el3Traps (s : State) : Prop := s.config.haveEL3 = true ∧ s.inputs.cptrEL3TFP = true

/-- Halted with `EDSCR.SDD` = 1. -/
abbrev Inputs.haltedSDD (i : Inputs) : Prop := i.halted = true ∧ i.edscrSDD = true

/-! ### Which move a step makes (R113) -/

/-- The state the PE executes from, where the PE moves next; none where the environment does. -/
def State.peTurn (s : State) : Option State :=
  match s.turns with
  | [] => some s
  | .pe :: rest => some (s.setTurns rest)
  | .environment _ :: _ => none

/-- The PE moves next, executes from `p`, and the bytes at the pc are the FPSR access `i`. -/
abbrev State.Runs (s p : State) (i : Instr) : Prop :=
  s.peTurn = some p ∧ ∃ bytes rest, p.fetch = .ok bytes ∧ decode bytes = .ok (i, rest)

/-- The PE moves next, executes from `p`, and the bytes at the pc are no FPSR access. -/
abbrev State.RunsOther (s p : State) : Prop :=
  s.peTurn = some p ∧ ∃ bytes e, p.fetch = .ok bytes ∧ decode bytes = .error e

/-- The environment resets the machine next. -/
abbrev State.Resets (s : State) : Prop :=
  ∃ k d rest, s.turns = .environment (.reset k d) :: rest

/-- R81: the exception occurs in some lane of the supplied step with its trap enable at 1, and, for Underflow, Flush-to-zero is not
enabled. -/
abbrev State.Traps (s : State) (st : SuppliedStep) (x : FPException) : Prop :=
  (∃ e ∈ st.lanes, e.occurred x = true) ∧ s.inputs.fpcr.enable x = true
    ∧ ¬ (x = .underflow ∧ s.inputs.flushToZeroEnabled = true)

/-- The access `i` completes: it is not trapped, and the pc moves on by 4 at the same Exception level (R63, R64). -/
abbrev Completes (i : Instr) (s : State) : Prop :=
  ∃ u, exec i s = .next u ∧ u.pc = s.pc + 4 ∧ u.pstate = s.pstate ∧ u.exc = s.exc

/-! ### How a run ends (R114) -/

/-- The three ends of a run. -/
inductive RunEnd where
  | final | fault | refusal
  deriving DecidableEq, Repr

/-- The end a step's answer means; none where the run goes on. The refusal of the fetch at the address just past the last word is
R114's final end. -/
def endOf : Result → Option RunEnd
  | .next _ => none
  | .fault _ => some .fault
  | .refused .endOfProgram => some .final
  | .refused _ => some .refusal

/-! ### The invariant -/

/-- A word-aligned address (R37, R48). -/
abbrev Aligned (a : Word) : Prop := a.toNat % 4 = 0

/-- "`PSTATE.EL == EL3` requires `HaveEL3`" (R35). -/
abbrev PState.legal (c : Config) (p : PState) : Prop := p.el = .el3 → c.haveEL3 = true

/-- An exception bank whose saved PSTATE is legal and whose vector is aligned. -/
abbrev ExcBank.legal (c : Config) (b : ExcBank) : Prop := b.spsr.legal c ∧ Aligned b.syncVector

/-- The three banks are legal. -/
abbrev ExcRegs.legal (c : Config) (e : ExcRegs) : Prop := e.el1.legal c ∧ e.el2.legal c ∧ e.el3.legal c

/-- A turn that leaves the machine legal: a reset or a change of inputs enters EL3 only where it is implemented, and a reset
draws an aligned pc and legal exception registers. -/
abbrev Turn.legal (c : Config) : Turn → Prop
  | .pe => True
  | .environment (.reset _ d) => d.pstate.legal c ∧ Aligned d.pc ∧ d.exc.legal c
  | .environment (.changeInputs _ p) => p.legal c

/-- The invariant: the text is canonical, the pc is aligned, EL3 is the current level only where implemented, and what will
enter the machine later (the vectors, the supplied steps, the turns) is so too. -/
structure State.Inv (s : State) : Prop where
  mem_wf : Memory.wf s.mem = true
  pc_aligned : Aligned s.pc
  el_legal : s.pstate.legal s.config
  exc_legal : s.exc.legal s.config
  supplied_aligned : ∀ st ∈ s.supplied, Aligned st.nextPC
  turns_legal : ∀ t ∈ s.turns, t.legal s.config

end Sys2Proof.Machine
end

