-- ==== Sys2Proof/Certificates/Slice0/Obligations.lean ====
section
/-! DEFINITION. The statements for the provers, from the spec's rules. -/

open Sys2Proof Sys2Proof.Machine

/-! ### Encoding -/

/-- Decode vectors E1 to E16 of 95_test_vectors.md section 2, and the byte image of R55. -/
def Obligations.SpecWordsDecode : Prop :=
  decode [0x20, 0x44, 0x3B, 0xD5] = .ok (.mrsFpsr 0, [])
    ∧ decodeWord 0xD53B443E = .ok (.mrsFpsr 30) ∧ decodeWord 0xD53B443F = .ok (.mrsFpsr 31)
    ∧ decodeWord 0xD51B4420 = .ok (.msrFpsr 0) ∧ decodeWord 0xD51B4429 = .ok (.msrFpsr 9)
    ∧ decodeWord 0xD51B443F = .ok (.msrFpsr 31)
    ∧ decodeWord 0xD53B4400 = .error (.otherSystemRegister 1 3 4 4 0)
    ∧ decodeWord 0xD51B4400 = .error (.otherSystemRegister 1 3 4 4 0)
    ∧ decodeWord 0xD53B4440 = .error (.otherSystemRegister 1 3 4 4 2)
    ∧ decodeWord 0xD53B4520 = .error (.otherSystemRegister 1 3 4 5 1)
    ∧ decodeWord 0xD53B5420 = .error (.otherSystemRegister 1 3 5 4 1)
    ∧ decodeWord 0xD53A4420 = .error (.otherSystemRegister 1 2 4 4 1)
    ∧ decodeWord 0xD5334420 = .error (.otherSystemRegister 0 3 4 4 1)
    ∧ decodeWord 0xD52B4420 = .error .notSystemRegisterMove
    ∧ decodeWord 0xD57B4420 = .error .notSystemRegisterMove
    ∧ decodeWord 0 = .error .notSystemRegisterMove

/-- Decoding an encoded instruction gives it back, whatever follows it, for every instruction and every operand (R55). -/
def Obligations.DecodeOfEncode : Prop :=
  ∀ (i : Instr) (rest : List Byte), decode (encode i ++ rest) = .ok (i, rest)

/-- Encoding a decoded word gives the word back: no bit of an accepted word is ignored (R55). -/
def Obligations.EncodeOfDecode : Prop :=
  ∀ (w : InstrWord) (i : Instr), decodeWord w = .ok i → encodeWord i = w

/-- R55: a word is `MRS <Xt>, FPSR` exactly when it matches 0xD53B4420 under the mask 0xFFFFFFE0, and `MSR FPSR, <Xt>` exactly
when it matches 0xD51B4420, the operand being bits 4:0; every other word is rejected (R58). -/
def Obligations.DecodeIsMaskAndMatch : Prop :=
  ∀ w : InstrWord,
    (∀ t : RegNum, decodeWord w = .ok (.mrsFpsr t) ↔ (w &&& 0xFFFFFFE0 = 0xD53B4420 ∧ t = w.extractLsb' 0 5))
    ∧ (∀ t : RegNum, decodeWord w = .ok (.msrFpsr t) ↔ (w &&& 0xFFFFFFE0 = 0xD51B4420 ∧ t = w.extractLsb' 0 5))
    ∧ ((∃ e, decodeWord w = .error e) ↔ (w &&& 0xFFFFFFE0 ≠ 0xD53B4420 ∧ w &&& 0xFFFFFFE0 ≠ 0xD51B4420))

/-! ### The step -/

/-- When the PE moves and the four bytes at an aligned pc decode to an instruction, step is exec of it: at the state itself
where no turn is scheduled, else at the state without the PE's turn. The step adds nothing else: exec moves the pc. -/
def Obligations.StepRunsDecodedInstruction : Prop :=
  ∀ (s : State) (b0 b1 b2 b3 : Byte) (i : Instr) (rest : List Byte),
    Aligned s.pc → Memory.acrossTop s.mem = false →
    Memory.read s.pc.toNat s.mem = some b0 → Memory.read (s.pc.toNat + 1) s.mem = some b1 →
    Memory.read (s.pc.toNat + 2) s.mem = some b2 → Memory.read (s.pc.toNat + 3) s.mem = some b3 →
    decode [b0, b1, b2, b3] = .ok (i, rest) →
    (s.turns = [] → step s = exec i s)
    ∧ (∀ q, s.turns = .pe :: q → step s = exec i (s.setTurns q))

/-- Where the PE's step stops, and under which name. The spec refuses a misaligned pc (R48), a program across the top of the
address space (R37) and a word with no rule (R58, R114 c: the refusal carries the word fetched), and ends the run past the last
word (R114 a). The model's choices: the names, the test for standing across the top, and noWordAtPC at a hole in the text (log 14),
and the refusal of a supplied step whose events contradict its class (log 16). -/
def Obligations.StepStopsByName : Prop :=
  ∀ s p : State, s.peTurn = some p →
    (¬ Aligned p.pc → step s = .refused .misalignedPC)
    ∧ (Aligned p.pc → Memory.acrossTop p.mem = true → step s = .refused .programAcrossTop)
    ∧ (Aligned p.pc → Memory.acrossTop p.mem = false → Memory.readWordBytes p.pc.toNat p.mem = none →
        step s = .refused (if p.atEnd then .endOfProgram else .noWordAtPC))
    ∧ (∀ b0 b1 b2 b3 e, p.fetch = .ok [b0, b1, b2, b3] → decode [b0, b1, b2, b3] = .error e → p.supplied = [] →
        step s = .refused (.notFPSRAccess (wordOfBytes b0 b1 b2 b3)))
    ∧ (s.RunsOther p → ∀ st q, p.supplied = st :: q → st.wellFormed = false → step s = .refused .illFormedSupply)

/-- R114 (a) ends a run as final when the pc is the address just past the last word. As the model reads it (log 14's choice): a step
ends the run as final exactly when the PE moves, its pc is aligned (R48), the text does not stand across the top (R37), and the pc,
at which no whole word stands, is the address past the highest listed byte, modulo 2^64, so that a program in the last word of the
address space ends at pc 0. -/
def Obligations.FinalExactlyPastLastWord : Prop :=
  ∀ s : State, endOf (step s) = some .final ↔
    ∃ p a, s.peTurn = some p ∧ Aligned p.pc ∧ Memory.acrossTop p.mem = false
      ∧ Memory.readWordBytes p.pc.toNat p.mem = none
      ∧ Memory.lastAddr p.mem = some a ∧ p.pc.toNat = (a + 1) % 2 ^ 64

/-- R37, R55, R114: a program of words at consecutive addresses from an aligned entry. If it ends above the top of the address space,
every aligned pc is refused; otherwise it does not stand across the top, the text is canonical, and each word stands at its
address, least significant byte first, with no other byte listed. That the test for standing across the top is that both ends of
the address space are listed, and that addresses wrap, are the model's choices (logs 13, 14); a program of the whole address space
is left out, where that test cannot tell the two cases apart. -/
def Obligations.LoadedProgramStandsOrIsRefused : Prop :=
  ∀ (s : State) (entry : Word) (words : List InstrWord), Aligned entry → 4 * words.length < 2 ^ 64 →
    (2 ^ 64 < entry.toNat + 4 * words.length →
      ∀ pc : Word, Aligned pc →
        step (((s.loadProgram entry words).setTurns []).setPc pc) = .refused .programAcrossTop)
    ∧ (entry.toNat + 4 * words.length ≤ 2 ^ 64 →
      Memory.acrossTop (s.loadProgram entry words).mem = false ∧ Memory.wf (s.loadProgram entry words).mem = true
        ∧ (∀ i (h : i < words.length), Memory.readWordBytes (entry.toNat + 4 * i) (s.loadProgram entry words).mem
            = some (words[i].extractLsb' 0 8, words[i].extractLsb' 8 8, words[i].extractLsb' 16 8,
                words[i].extractLsb' 24 8))
        ∧ (∀ a, a < entry.toNat ∨ entry.toNat + 4 * words.length ≤ a →
            Memory.read a (s.loadProgram entry words).mem = none))

/-! ### The two instructions -/

/-- R63: where the access is enabled (R107), `MRS <Xt>, FPSR` completes. `Xt` receives a value equal to the stored FPSR on every
named field, with the RES0 bits as the policy says (R28); for t = 31 the value is discarded. The pc moves on by 4; FPSR,
PSTATE, the other registers and everything else stay, and a second read next returns equal values on the named fields. A trap or
UNDEFINED outcome of the check is the outcome alone; where that trap goes is R95 and R103 (log 9). -/
def Obligations.MrsReadsFpsr : Prop :=
  ∀ (t : RegNum) (s : State),
    decodeWord (0xD53B4420 ||| t.setWidth 32) = .ok (.mrsFpsr t)
    ∧ (s.accessEnabled → ∃ u v, exec (.mrsFpsr t) s = .next u
      ∧ (∀ f : FpsrField, f.present s.config = true → FpsrField.of v f = FpsrField.of s.fpsr f)
      ∧ (s.config.res0Policy = .razWi → v &&& res0Mask s.config = 0)
      ∧ (s.config.res0Policy = .stored → v = s.fpsr)
      ∧ (s.config.res0Policy = .any → v &&& ~~~ s.fpsr = 0)
      ∧ (∀ r, u.readX r = if r = t ∧ t ≠ 31 then v else s.readX r)
      ∧ u.pc = s.pc + 4 ∧ u.fpsr = s.fpsr ∧ u.pstate = s.pstate ∧ u.inputs = s.inputs ∧ u.exc = s.exc
      ∧ u.config = s.config ∧ u.supplied = s.supplied ∧ u.turns = s.turns
      ∧ (∀ a, Memory.read a u.mem = Memory.read a s.mem)
      ∧ (∀ r : RegNum, r ≠ 31 → ∃ w, exec (.mrsFpsr r) u = .next w
          ∧ ∀ f : FpsrField, f.present s.config = true → FpsrField.of (w.readX r) f = FpsrField.of v f))
    ∧ (∀ tgt ec, s.checkAccess = .trap tgt ec → exec (.mrsFpsr t) s = s.systemAccessTrap tgt ec)
    ∧ (s.checkAccess = .undef → exec (.mrsFpsr t) s = .fault (.undefined s.pc))

/-- R64: where the access is enabled (R107), `MSR FPSR, <Xt>` completes: all 64 bits of FPSR become `Xt`, 0 for t = 31. The pc
moves on by 4; every register, PSTATE and everything else stay, and the next instruction sees the value written. A trap or
UNDEFINED outcome of the check is the outcome alone; where that trap goes is R95 and R103 (log 9). -/
def Obligations.MsrWritesFpsr : Prop :=
  ∀ (t : RegNum) (s : State),
    decodeWord (0xD51B4420 ||| t.setWidth 32) = .ok (.msrFpsr t)
    ∧ (s.accessEnabled → ∃ u, exec (.msrFpsr t) s = .next u
      ∧ u.fpsr = s.readX t ∧ (t = 31 → u.fpsr = 0)
      ∧ (∀ f : FpsrField, FpsrField.of u.fpsr f = (s.readX t).getLsbD f.bit)
      ∧ (∀ r, u.readX r = s.readX r)
      ∧ u.pc = s.pc + 4 ∧ u.pstate = s.pstate ∧ u.inputs = s.inputs ∧ u.exc = s.exc
      ∧ u.config = s.config ∧ u.supplied = s.supplied ∧ u.turns = s.turns
      ∧ (∀ a, Memory.read a u.mem = Memory.read a s.mem)
      ∧ (∀ r : RegNum, r ≠ 31 → ∃ w, exec (.mrsFpsr r) u = .next w
          ∧ ∀ f : FpsrField, f.present s.config = true → FpsrField.of (w.readX r) f = FpsrField.of (s.readX t) f))
    ∧ (∀ tgt ec, s.checkAccess = .trap tgt ec → exec (.msrFpsr t) s = s.systemAccessTrap tgt ec)
    ∧ (s.checkAccess = .undef → exec (.msrFpsr t) s = .fault (.undefined s.pc))

/-- The frame of both instructions over every next state, a trap taken included: MRS writes no register but its destination and
leaves FPSR, MSR writes no register, neither writes memory, an input, a parameter or PSTATE's flags; the Exception level and
the exception registers change only where the access is not enabled, and then FPSR and every register stay (R63, R64, R89).
Over a taken trap, that it is a next state at all, that of PSTATE the Exception level alone changes, and that only the bank of the
level taken to is written are the model's choices (logs 9 and 12, PRESUMED). -/
def Obligations.FrameOfFpsrAccesses : Prop :=
  ∀ (t : RegNum) (s u : State),
    (exec (.mrsFpsr t) s = .next u → u.fpsr = s.fpsr ∧ ∀ r, r ≠ t → u.readX r = s.readX r)
    ∧ (exec (.msrFpsr t) s = .next u → ∀ r, u.readX r = s.readX r)
    ∧ ∀ i, exec i s = .next u →
      (∀ a, Memory.read a u.mem = Memory.read a s.mem)
      ∧ u.inputs = s.inputs ∧ u.config = s.config ∧ u.supplied = s.supplied ∧ u.turns = s.turns
      ∧ u.pstate.n = s.pstate.n ∧ u.pstate.z = s.pstate.z ∧ u.pstate.c = s.pstate.c ∧ u.pstate.v = s.pstate.v
      ∧ (s.accessEnabled → u.pstate = s.pstate ∧ u.exc = s.exc)
      ∧ (¬ s.accessEnabled → u.fpsr = s.fpsr ∧ (∀ r, u.readX r = s.readX r)
          ∧ ∀ b : TrapTarget, u.pstate.el ≠ b.toEL → u.exc.get b = s.exc.get b)

/-- R57: `MRS XZR, FPSR` performs the check and discards the value; `MSR FPSR, XZR` writes 0 to all 64 bits. XZR reads 0 in every
state and a write to it changes nothing (R36). -/
def Obligations.XzrDiscardsAndClears : Prop :=
  ∀ s : State,
    s.readX 31 = 0 ∧ (∀ v, s.writeX 31 v = s)
    ∧ (s.accessEnabled →
        (∃ u, exec (.mrsFpsr 31) s = .next u ∧ u.x = s.x ∧ u.fpsr = s.fpsr ∧ u.pc = s.pc + 4)
        ∧ (∃ u, exec (.msrFpsr 31) s = .next u ∧ u.x = s.x ∧ u.fpsr = 0 ∧ u.pc = s.pc + 4))
    ∧ (¬ s.accessEnabled → ∀ t, exec (.mrsFpsr 31) s = exec (.mrsFpsr t) s ∧ exec (.msrFpsr 31) s = exec (.msrFpsr t) s)

/-- R51: an `MRS` after an `MSR` sees what was written, on every named field, whatever the policy; after `MSR FPSR, XZR` it reads 0
(vectors W1 to W9). -/
def Obligations.ReadAfterWrite : Prop :=
  ∀ (a b : RegNum) (s : State), s.accessEnabled → b ≠ 31 →
    ∃ u w, exec (.msrFpsr a) s = .next u ∧ exec (.mrsFpsr b) u = .next w
      ∧ (∀ f : FpsrField, f.present s.config = true → FpsrField.of (w.readX b) f = FpsrField.of (s.readX a) f)
      ∧ (a = 31 → w.readX b = 0) ∧ w.pc = s.pc + 8

/-- R50, R63: two reads in a row with nothing between return equal values on the named fields, and on all 64 bits where the policy
draws nothing. -/
def Obligations.ReadsInARowAgree : Prop :=
  ∀ (a b : RegNum) (s : State), s.accessEnabled → a ≠ 31 → b ≠ 31 →
    ∃ u w, exec (.mrsFpsr a) s = .next u ∧ exec (.mrsFpsr b) u = .next w
      ∧ (∀ f : FpsrField, f.present s.config = true → FpsrField.of (w.readX b) f = FpsrField.of (u.readX a) f)
      ∧ (s.config.res0Policy ≠ .any → w.readX b = u.readX a)

/-- R110, R111: writing back what was read restores every named field as it was at the read, so an event recorded between the `MRS`
and the `MSR` is lost. `p` is any state reached in between that kept the register and the parameters. -/
def Obligations.WriteBackRestoresAndLoses : Prop :=
  ∀ (t : RegNum) (s p : State), s.accessEnabled → p.accessEnabled → t ≠ 31 → p.config = s.config →
    ∃ u, exec (.mrsFpsr t) s = .next u
      ∧ (p.readX t = u.readX t →
          ∃ w, exec (.msrFpsr t) p = .next w
            ∧ ∀ f : FpsrField, f.present s.config = true → FpsrField.of w.fpsr f = FpsrField.of s.fpsr f)

/-- R59, R92: an enabled `MSR` completes whatever value it writes (a 1 in a RES0 bit, a 1 in a cumulative bit whose FPCR trap enable
is 1) and stores exactly it. -/
def Obligations.MsrCompletesForEveryValue : Prop :=
  ∀ (t : RegNum) (s : State) (v : Word) (f : FPCR), s.accessEnabled → t ≠ 31 →
    ∃ u, exec (.msrFpsr t) ((s.writeX t v).setInputs { s.inputs with fpcr := f }) = .next u
      ∧ u.fpsr = v ∧ u.pc = s.pc + 4

/-! ### The access check -/

/-- R107: the check allows the access exactly where R107's conditions hold. -/
def Obligations.AllowedExactlyWhenEnabled : Prop :=
  ∀ s : State, s.checkAccess = .allow ↔ s.accessEnabled

/-- R66: the outcome of either instruction at EL0, arm by arm in priority order; each arm assumes that no earlier one decided. -/
def Obligations.OutcomeAtEL0 : Prop :=
  ∀ (i : Instr) (s : State), s.pstate.el = .el0 →
    (s.debugArm → exec i s = .fault (.undefined s.pc))
    ∧ (¬ s.debugArm → s.inputs.el1TrapsEL0 → s.inputs.tgeRoutes → exec i s = s.systemAccessTrap .el2 0x00)
    ∧ (¬ s.debugArm → s.inputs.el1TrapsEL0 → ¬ s.inputs.tgeRoutes → exec i s = s.systemAccessTrap .el1 0x07)
    ∧ (¬ s.debugArm → ¬ s.inputs.el1TrapsEL0 → s.inputs.el2TrapsEL0 → exec i s = s.systemAccessTrap .el2 0x07)
    ∧ (¬ s.debugArm → ¬ s.inputs.el1TrapsEL0 → ¬ s.inputs.el2TrapsEL0 → s.el3Traps → s.inputs.haltedSDD →
        exec i s = .fault (.undefined s.pc))
    ∧ (¬ s.debugArm → ¬ s.inputs.el1TrapsEL0 → ¬ s.inputs.el2TrapsEL0 → s.el3Traps → ¬ s.inputs.haltedSDD →
        exec i s = s.systemAccessTrap .el3 0x07)
    ∧ (¬ s.debugArm → ¬ s.inputs.el1TrapsEL0 → ¬ s.inputs.el2TrapsEL0 → ¬ s.el3Traps → Completes i s)

/-- R67: the outcome of either instruction at EL1, arm by arm in priority order. -/
def Obligations.OutcomeAtEL1 : Prop :=
  ∀ (i : Instr) (s : State), s.pstate.el = .el1 →
    (s.debugArm → exec i s = .fault (.undefined s.pc))
    ∧ (¬ s.debugArm → s.inputs.el1TrapsEL1 → exec i s = s.systemAccessTrap .el1 0x07)
    ∧ (¬ s.debugArm → ¬ s.inputs.el1TrapsEL1 → s.inputs.el2TrapsEL1 → exec i s = s.systemAccessTrap .el2 0x07)
    ∧ (¬ s.debugArm → ¬ s.inputs.el1TrapsEL1 → ¬ s.inputs.el2TrapsEL1 → s.el3Traps → s.inputs.haltedSDD →
        exec i s = .fault (.undefined s.pc))
    ∧ (¬ s.debugArm → ¬ s.inputs.el1TrapsEL1 → ¬ s.inputs.el2TrapsEL1 → s.el3Traps → ¬ s.inputs.haltedSDD →
        exec i s = s.systemAccessTrap .el3 0x07)
    ∧ (¬ s.debugArm → ¬ s.inputs.el1TrapsEL1 → ¬ s.inputs.el2TrapsEL1 → ¬ s.el3Traps → Completes i s)

/-- R68: the outcome of either instruction at EL2, arm by arm in priority order. -/
def Obligations.OutcomeAtEL2 : Prop :=
  ∀ (i : Instr) (s : State), s.pstate.el = .el2 →
    (s.debugArm → exec i s = .fault (.undefined s.pc))
    ∧ (¬ s.debugArm → s.inputs.el2TrapsEL2 → exec i s = s.systemAccessTrap .el2 0x07)
    ∧ (¬ s.debugArm → ¬ s.inputs.el2TrapsEL2 → s.el3Traps → s.inputs.haltedSDD → exec i s = .fault (.undefined s.pc))
    ∧ (¬ s.debugArm → ¬ s.inputs.el2TrapsEL2 → s.el3Traps → ¬ s.inputs.haltedSDD →
        exec i s = s.systemAccessTrap .el3 0x07)
    ∧ (¬ s.debugArm → ¬ s.inputs.el2TrapsEL2 → ¬ s.el3Traps → Completes i s)

/-- R69: at EL3 only `CPTR_EL3.TFP` is consulted: 1 traps to EL3 with code 0x07, 0 allows, halted or not. -/
def Obligations.OutcomeAtEL3 : Prop :=
  ∀ (i : Instr) (s : State), s.pstate.el = .el3 →
    (s.inputs.cptrEL3TFP = true → exec i s = s.systemAccessTrap .el3 0x07)
    ∧ (s.inputs.cptrEL3TFP = false → Completes i s)

/-- R70 (b) to (e): the codes, the targets, where UNDEFINED comes from, and the one place where the IMPLEMENTATION_DEFINED
parameter matters. -/
def Obligations.CheckConsequences : Prop :=
  ∀ (c : Config) (el : EL) (n : Inputs),
    (∀ t ec, checkFpsrAccess c el n = .trap t ec →
      (ec = 0x07 ∨ (ec = 0x00 ∧ el = .el0 ∧ t = .el2))
      ∧ el.level ≤ t.toEL.level
      ∧ (t = .el2 → n.el2Enabled = true ∨ el = .el2)
      ∧ (t = .el3 → c.haveEL3 = true ∨ el = .el3))
    ∧ (checkFpsrAccess c el n = .undef →
      n.halted = true ∧ c.haveEL3 = true ∧ n.edscrSDD = true ∧ n.cptrEL3TFP = true ∧ el ≠ .el3)
    ∧ (∀ on off, checkFpsrAccess { c with impDefEL3TrapPrioritySDD := true } el n = on →
        checkFpsrAccess { c with impDefEL3TrapPrioritySDD := false } el n = off → on ≠ off →
        on = .undef ∧ n.halted = true ∧ c.haveEL3 = true ∧ n.edscrSDD = true ∧ n.cptrEL3TFP = true
          ∧ ∃ t ec, off = .trap t ec ∧ t ≠ .el3)

/-- R65, R70 (f): an access that is not enabled has one outcome, whichever instruction it is and whatever its operand, and that
outcome does not depend on FPSR or the general registers. -/
def Obligations.RefusedAccessIsBlind : Prop :=
  ∀ (i j : Instr) (s : State), ¬ s.accessEnabled →
    exec i s = exec j s
    ∧ ∀ (w : Word) (x : Vector Word 31), ¬ ((s.setFpsr w).setX x).accessEnabled
      ∧ (∀ u, exec i s = .next u → exec i ((s.setFpsr w).setX x) = .next ((u.setFpsr w).setX x))
      ∧ (∀ r, exec i s = .fault r → exec i ((s.setFpsr w).setX x) = .fault r)

/-! ### Traps -/

/-- R89, R95: where a trap is terminal it is the fault that reports the target, the code and the address of the trapped
instruction, and nothing else can be reported: a target is EL1, EL2 or EL3 and a code 0x07 or 0x00. -/
def Obligations.TerminalTrapReports : Prop :=
  ∀ (i : Instr) (s : State), s.config.trapEntry = .terminal →
    (∀ t ec, s.checkAccess = .trap t ec → exec i s = .fault (.systemAccessTrap t ec s.pc))
    ∧ (∀ t ec a, exec i s = .fault (.systemAccessTrap t ec a) →
        a = s.pc ∧ (ec = 0x07 ∨ ec = 0x00) ∧ s.checkAccess = .trap t ec ∧ ¬ s.accessEnabled)

/-- R103: where a trap is taken, the level taken to receives the address of the trapped instruction, the PSTATE of the trapped code
and the syndrome (EC, IL = 1, 0x1FE00000 for code 0x07, 0x02000000 for 0x00), becomes the current level, and execution goes on at
its vector; FPSR, the general registers, PSTATE's flags and the banks of the other levels stay. The continuation is log 9's. -/
def Obligations.TakenTrapSavesAndEnters : Prop :=
  ∀ (i : Instr) (s : State) (t : TrapTarget) (ec : BitVec 6), s.config.trapEntry = .taken → s.checkAccess = .trap t ec →
    ∃ u g, exec i s = .next u
      ∧ g = (if t = .el1 ∧ s.inputs.el2Enabled = true ∧ s.inputs.hcrEL2TGE = true then TrapTarget.el2 else t)
      ∧ (u.exc.get g).elr = s.pc ∧ (u.exc.get g).spsr = s.pstate
      ∧ (u.exc.get g).esr.extractLsb' 26 6 = ec ∧ (u.exc.get g).esr.getLsbD 25 = true
      ∧ (ec = 0x07 → (u.exc.get g).esr = 0x1FE00000) ∧ (ec = 0x00 → (u.exc.get g).esr = 0x02000000)
      ∧ u.pc = (s.exc.get g).syncVector ∧ u.pstate = { s.pstate with el := g.toEL }
      ∧ (∀ b, b ≠ g → u.exc.get b = s.exc.get b) ∧ (u.exc.get g).syncVector = (s.exc.get g).syncVector
      ∧ u.fpsr = s.fpsr ∧ u.x = s.x ∧ u.inputs = s.inputs ∧ u.mem = s.mem ∧ u.config = s.config
      ∧ u.supplied = s.supplied ∧ u.turns = s.turns

/-! ### Implicit updates -/

/-- R75 to R80: an instruction of the surrounding model with one event record `e`, none of whose exceptions is trapped, completes
and sets each cumulative bit under its own condition; every other bit of FPSR stays. -/
def Obligations.EachEventSetsItsOwnBit : Prop :=
  ∀ (s p : State) (st : SuppliedStep) (q : List SuppliedStep) (e : EventRecord),
    s.RunsOther p → p.supplied = st :: q → st.wellFormed = true → st.lanes = [e] →
    (∀ x, ¬ p.Traps st x) →
    ∃ u, step s = .next u
      ∧ (FpsrField.of u.fpsr .ioc = (FpsrField.of s.fpsr .ioc || (e.io && !p.inputs.fpcr.ioe)))
      ∧ (FpsrField.of u.fpsr .dzc = (FpsrField.of s.fpsr .dzc || (e.dz && !p.inputs.fpcr.dze)))
      ∧ (FpsrField.of u.fpsr .ofc = (FpsrField.of s.fpsr .ofc || (e.overflow && !p.inputs.fpcr.ofe)))
      ∧ (FpsrField.of u.fpsr .ufc = (FpsrField.of s.fpsr .ufc
          || (e.uf && (!p.inputs.fpcr.ufe || p.inputs.flushToZeroEnabled))))
      ∧ (FpsrField.of u.fpsr .ixc = (FpsrField.of s.fpsr .ixc || (e.ix && !p.inputs.fpcr.ixe)))
      ∧ (FpsrField.of u.fpsr .idc = (FpsrField.of s.fpsr .idc || (e.idn && !p.inputs.fpcr.ide)))
      ∧ (FpsrField.of u.fpsr .qc = (FpsrField.of s.fpsr .qc || e.sat))
      ∧ (∀ n, (∀ f : FpsrField, f.cumulative = true → f.bit ≠ n) → u.fpsr.getLsbD n = s.fpsr.getLsbD n)

/-- R82: QC is the OR of its old value and `Sat`, whatever the trap enables and whether the instruction completes or ends in
TrappedFPException; an instruction that saturates completes, sets QC, and changes no other bit of FPSR. -/
def Obligations.SaturationSetsQC : Prop :=
  ∀ (s p : State) (st : SuppliedStep) (q : List SuppliedStep) (e : EventRecord),
    s.RunsOther p → p.supplied = st :: q → st.wellFormed = true → st.lanes = [e] →
    (∀ u, step s = .next u → FpsrField.of u.fpsr .qc = (FpsrField.of s.fpsr .qc || e.sat))
    ∧ (∀ k w a, step s = .fault (.trappedFPException k w a) → FpsrField.of w .qc = (FpsrField.of s.fpsr .qc || e.sat))
    ∧ (e.sat = true → ∃ u, step s = .next u ∧ FpsrField.of u.fpsr .qc = true
        ∧ ∀ n, n ≠ 27 → u.fpsr.getLsbD n = s.fpsr.getLsbD n)

/-- R83: lanes count together. An instruction depends on its lanes only through which events occurred in any of them (the spec's
own inference from R74): two supplied steps that agree on that and on the instruction's own results give the same step. -/
def Obligations.LanesCountTogether : Prop :=
  ∀ (s p : State) (st st' : SuppliedStep) (q : List SuppliedStep),
    s.RunsOther p → p.supplied = st :: q → st.wellFormed = true → st'.wellFormed = true →
    st'.compare = st.compare → st'.xWrites = st.xWrites → st'.nextPC = st.nextPC →
    (∀ x, (∃ e ∈ st'.lanes, e.occurred x = true) ↔ ∃ e ∈ st.lanes, e.occurred x = true) →
    st'.lanes.any (·.sat) = st.lanes.any (·.sat) →
    step (s.setSupplied (st' :: q)) = step s

/-- R81, R101: an instruction some of whose exceptions occur with their trap enable at 1 (Underflow: and Flush-to-zero off) ends in
TrappedFPException of exactly those, and their cumulative bits are not set. Log 8's reading (DEDUCED): the fault carries the FPSR
it leaves and the pc; in that FPSR the bit of every other exception that occurred is old or 1, an Underflow with FPCR.UFE 1
under Flush-to-zero among them, where R81 draws only for exceptions whose enables are 0; QC is as R82 says and nothing is cleared. -/
def Obligations.TrappedExceptionEndsTheStep : Prop :=
  ∀ (s p : State) (st : SuppliedStep) (q : List SuppliedStep),
    s.RunsOther p → p.supplied = st :: q → st.wellFormed = true →
    (∃ x, p.Traps st x) →
    ∃ kinds w, step s = .fault (.trappedFPException kinds w p.pc)
      ∧ (∀ x, x ∈ kinds ↔ p.Traps st x)
      ∧ (∀ x, p.Traps st x → FpsrField.of w x.field = FpsrField.of s.fpsr x.field)
      ∧ (∀ n, s.fpsr.getLsbD n = true → w.getLsbD n = true)
      ∧ (∀ n, w.getLsbD n = true → s.fpsr.getLsbD n = true
          ∨ (∃ x, (∃ e ∈ st.lanes, e.occurred x = true) ∧ ¬ p.Traps st x ∧ x.field.bit = n)
          ∨ (st.lanes.any (·.sat) = true ∧ n = 27))
      ∧ FpsrField.of w .qc = (FpsrField.of s.fpsr .qc || st.lanes.any (·.sat))

/-- What else an instruction of the surrounding model does and does not do: it leaves the pc where its own rules say (R37), and a
floating-point comparison sets PSTATE's flags (R85). The rest is the model's choice of what a supplied step holds (log 15, DESIGN
CHOICE): no other instruction sets PSTATE's flags, its register results are the ones supplied, one supplied step is used up, and the
Exception level, the inputs, the exception registers, the parameters and memory stay. -/
def Obligations.SurroundingStepFrame : Prop :=
  ∀ (s p u : State) (st : SuppliedStep) (q : List SuppliedStep),
    s.RunsOther p → p.supplied = st :: q → step s = .next u →
      u.pc = st.nextPC ∧ u.supplied = q ∧ u.turns = p.turns
      ∧ u.pstate.el = s.pstate.el
      ∧ (st.compare = none → u.pstate = s.pstate)
      ∧ (∀ f, st.compare = some f → u.pstate.n = f.n ∧ u.pstate.z = f.z ∧ u.pstate.c = f.c ∧ u.pstate.v = f.v)
      ∧ (∀ r, u.readX r = (s.writeXs st.xWrites).readX r)
      ∧ (∀ r, r ∉ st.xWrites.map Prod.fst → u.readX r = s.readX r)
      ∧ u.inputs = s.inputs ∧ u.exc = s.exc ∧ u.config = s.config
      ∧ (∀ a, Memory.read a u.mem = Memory.read a s.mem)

/-! ### Rules of the whole machine -/

/-- R74: hardware sets, only software clears. A step that is no reset and no `MSR FPSR, <Xt>` leaves every cumulative bit that is 1
at 1, and an instruction that raises no exception and saturates nothing leaves every bit as it is. -/
def Obligations.CumulativeBitsAreSticky : Prop :=
  ∀ (s u : State) (f : FpsrField), f.cumulative = true → ¬ s.Resets → (∀ p t, ¬ s.Runs p (.msrFpsr t)) →
    step s = .next u →
    (FpsrField.of s.fpsr f = true → FpsrField.of u.fpsr f = true)
    ∧ (∀ p st q, s.RunsOther p → p.supplied = st :: q → (∀ e ∈ st.lanes, e.anyException = false ∧ e.sat = false) →
        FpsrField.of u.fpsr f = FpsrField.of s.fpsr f)

/-- R85: no instruction changes FPSR bits 31:28 except `MSR FPSR, <Xt>`; a comparison's flags go to PSTATE, and it may raise Invalid
Operation and so set IOC. -/
def Obligations.ConditionFlagsOnlyByMsr : Prop :=
  ∀ (s u : State), ¬ s.Resets → step s = .next u →
    ((∀ p t, ¬ s.Runs p (.msrFpsr t)) → u.fpsr.extractLsb' 28 4 = s.fpsr.extractLsb' 28 4)
    ∧ (∀ p st q f, s.RunsOther p → p.supplied = st :: q → st.compare = some f →
        u.pstate.n = f.n ∧ u.pstate.z = f.z ∧ u.pstate.c = f.c ∧ u.pstate.v = f.v
        ∧ u.fpsr.extractLsb' 28 4 = s.fpsr.extractLsb' 28 4
        ∧ (p.inputs.fpcr.ioe = false → st.lanes.any (·.io) = true → FpsrField.of u.fpsr .ioc = true))

/-- R41: FPSR keeps its value through every step that is no reset, no `MSR FPSR, <Xt>` and no instruction of the surrounding
model. -/
def Obligations.FpsrStableUntilWritten : Prop :=
  ∀ (s u : State), ¬ s.Resets → (∀ p t, ¬ s.Runs p (.msrFpsr t)) → (∀ p, ¬ s.RunsOther p) →
    step s = .next u → u.fpsr = s.fpsr

/-- R88: no step but an `MRS <Xt>, FPSR` depends on FPSR: started with another FPSR it reaches the same state but for FPSR. -/
def Obligations.OnlyMrsReadsFpsr : Prop :=
  ∀ (s u : State) (w : Word), (∀ p t, ¬ s.Runs p (.mrsFpsr t)) → step s = .next u →
    ∃ w', step (s.setFpsr w) = .next (u.setFpsr w')

/-- R113: the implementation parameters never change; R45, R53: no step writes the program text. -/
def Obligations.ParametersAndTextNeverChange : Prop :=
  ∀ s u : State, step s = .next u →
    u.config = s.config ∧ u.mem = s.mem ∧ ∀ a, Memory.read a u.mem = Memory.read a s.mem

/-- The machine's invariant holds after every step from a state in which it holds: canonical text, aligned pc, EL3 only where it is
implemented (R35, R37, R48). -/
def Obligations.StepKeepsInv : Prop :=
  ∀ s u : State, s.Inv → step s = .next u → u.Inv

/-- The invariant holds of State.reset, whose values are the model's choice (logs 1 to 6). -/
def Obligations.ResetMeetsInv : Prop :=
  State.reset.Inv

/-! ### Reset and the environment -/

/-- R42, R105, R106: a reset, Warm or Cold alike, leaves FPSR, the general registers, the pc and every input at the values drawn,
whatever they were; every value can be drawn. The parameters stay (R113). That a reset also redraws the exception registers, and
that the program text, the supplied steps and the later turns survive it, is the model's choice (log 18, DESIGN CHOICE). -/
def Obligations.ResetDrawsEverything : Prop :=
  ∀ (s : State) (k : ResetKind) (d : ResetDraw) (q : List Turn), s.turns = .environment (.reset k d) :: q →
    ∃ u, step s = .next u ∧ u.fpsr = d.fpsr ∧ u.x = d.x ∧ u.pc = d.pc ∧ u.pstate = d.pstate ∧ u.inputs = d.inputs
      ∧ u.exc = d.exc ∧ u.config = s.config ∧ u.mem = s.mem ∧ u.supplied = s.supplied ∧ u.turns = q
      ∧ (∀ k', step (s.setTurns (.environment (.reset k' d) :: q)) = .next u)

/-- R113: a change of inputs takes place between two steps, changes nothing but the inputs and PSTATE, and the next step reads the
new values. R113 lists of PSTATE the Exception level alone; that the change may set PSTATE's flags too is the model's choice (log
26). -/
def Obligations.InputChangeIsSeenByNextStep : Prop :=
  ∀ (s : State) (n : Inputs) (ps : PState) (q : List Turn), s.turns = .environment (.changeInputs n ps) :: q →
    ∃ u, step s = .next u ∧ u.inputs = n ∧ u.pstate = ps ∧ u.fpsr = s.fpsr ∧ u.x = s.x ∧ u.pc = s.pc ∧ u.exc = s.exc
      ∧ u.mem = s.mem ∧ u.config = s.config ∧ u.supplied = s.supplied ∧ u.turns = q
      ∧ u.checkAccess = checkFpsrAccess s.config ps.el n

/-- The state after reset that logs 1, 4, 5, 6 name (the model's choice): the pc is 0, the level EL1, the access enabled, and
either instruction, placed where the machine fetches, completes as the first step for every operand. -/
def Obligations.FirstInstructionAfterReset : Prop :=
  State.reset.pc = 0 ∧ State.reset.pstate.el = .el1 ∧ State.reset.accessEnabled
    ∧ ∀ i : Instr, ∃ u, step (State.reset.withFetchWord 32 (encodeWord i).toNat) = .next u ∧ u.pc = 4

/-- R13: the fields at their bits, FIELD_MASK the set of bits of the fields that exist, RES0_MASK its complement. -/
def Obligations.FieldMaskIsTheLayout : Prop :=
  ([FpsrField.n, .z, .c, .v, .qc, .idc, .ixc, .ufc, .ofc, .dzc, .ioc].map FpsrField.bit
      = [31, 30, 29, 28, 27, 7, 4, 3, 2, 1, 0])
    ∧ ∀ c : Config, res0Mask c = ~~~ fieldMask c
      ∧ (c.haveAArch32FP = true → fieldMask c = 0x00000000F800009F)
      ∧ (c.haveAArch32FP = false → fieldMask c = 0x000000000800009F)
      ∧ ∀ n, (fieldMask c).getLsbD n = true ↔ ∃ f : FpsrField, f.present c = true ∧ f.bit = n
end

