-- ==== Sys2Proof/Laws/State.lean ====
section
/-! SUPPORT. Each field after each update of the state: one lemma per field per update. -/

namespace Sys2Proof.Machine

/-! ### setX -/

@[simp] theorem State.setX_config (s : State) (v : Vector Word 31) : (s.setX v).config = s.config := rfl
@[simp] theorem State.setX_x (s : State) (v : Vector Word 31) : (s.setX v).x = v := rfl
@[simp] theorem State.setX_pc (s : State) (v : Vector Word 31) : (s.setX v).pc = s.pc := rfl
@[simp] theorem State.setX_fpsr (s : State) (v : Vector Word 31) : (s.setX v).fpsr = s.fpsr := rfl
@[simp] theorem State.setX_pstate (s : State) (v : Vector Word 31) : (s.setX v).pstate = s.pstate := rfl
@[simp] theorem State.setX_inputs (s : State) (v : Vector Word 31) : (s.setX v).inputs = s.inputs := rfl
@[simp] theorem State.setX_exc (s : State) (v : Vector Word 31) : (s.setX v).exc = s.exc := rfl
@[simp] theorem State.setX_mem (s : State) (v : Vector Word 31) : (s.setX v).mem = s.mem := rfl
@[simp] theorem State.setX_supplied (s : State) (v : Vector Word 31) : (s.setX v).supplied = s.supplied := rfl
@[simp] theorem State.setX_turns (s : State) (v : Vector Word 31) : (s.setX v).turns = s.turns := rfl
@[simp] theorem State.setX_draws (s : State) (v : Vector Word 31) : (s.setX v).draws = s.draws := rfl

/-! ### setPc -/

@[simp] theorem State.setPc_config (s : State) (v : Word) : (s.setPc v).config = s.config := rfl
@[simp] theorem State.setPc_x (s : State) (v : Word) : (s.setPc v).x = s.x := rfl
@[simp] theorem State.setPc_pc (s : State) (v : Word) : (s.setPc v).pc = v := rfl
@[simp] theorem State.setPc_fpsr (s : State) (v : Word) : (s.setPc v).fpsr = s.fpsr := rfl
@[simp] theorem State.setPc_pstate (s : State) (v : Word) : (s.setPc v).pstate = s.pstate := rfl
@[simp] theorem State.setPc_inputs (s : State) (v : Word) : (s.setPc v).inputs = s.inputs := rfl
@[simp] theorem State.setPc_exc (s : State) (v : Word) : (s.setPc v).exc = s.exc := rfl
@[simp] theorem State.setPc_mem (s : State) (v : Word) : (s.setPc v).mem = s.mem := rfl
@[simp] theorem State.setPc_supplied (s : State) (v : Word) : (s.setPc v).supplied = s.supplied := rfl
@[simp] theorem State.setPc_turns (s : State) (v : Word) : (s.setPc v).turns = s.turns := rfl
@[simp] theorem State.setPc_draws (s : State) (v : Word) : (s.setPc v).draws = s.draws := rfl

/-! ### setFpsr -/

@[simp] theorem State.setFpsr_config (s : State) (v : Word) : (s.setFpsr v).config = s.config := rfl
@[simp] theorem State.setFpsr_x (s : State) (v : Word) : (s.setFpsr v).x = s.x := rfl
@[simp] theorem State.setFpsr_pc (s : State) (v : Word) : (s.setFpsr v).pc = s.pc := rfl
@[simp] theorem State.setFpsr_fpsr (s : State) (v : Word) : (s.setFpsr v).fpsr = v := rfl
@[simp] theorem State.setFpsr_pstate (s : State) (v : Word) : (s.setFpsr v).pstate = s.pstate := rfl
@[simp] theorem State.setFpsr_inputs (s : State) (v : Word) : (s.setFpsr v).inputs = s.inputs := rfl
@[simp] theorem State.setFpsr_exc (s : State) (v : Word) : (s.setFpsr v).exc = s.exc := rfl
@[simp] theorem State.setFpsr_mem (s : State) (v : Word) : (s.setFpsr v).mem = s.mem := rfl
@[simp] theorem State.setFpsr_supplied (s : State) (v : Word) : (s.setFpsr v).supplied = s.supplied := rfl
@[simp] theorem State.setFpsr_turns (s : State) (v : Word) : (s.setFpsr v).turns = s.turns := rfl
@[simp] theorem State.setFpsr_draws (s : State) (v : Word) : (s.setFpsr v).draws = s.draws := rfl

/-! ### setPstate -/

@[simp] theorem State.setPstate_config (s : State) (v : PState) : (s.setPstate v).config = s.config := rfl
@[simp] theorem State.setPstate_x (s : State) (v : PState) : (s.setPstate v).x = s.x := rfl
@[simp] theorem State.setPstate_pc (s : State) (v : PState) : (s.setPstate v).pc = s.pc := rfl
@[simp] theorem State.setPstate_fpsr (s : State) (v : PState) : (s.setPstate v).fpsr = s.fpsr := rfl
@[simp] theorem State.setPstate_pstate (s : State) (v : PState) : (s.setPstate v).pstate = v := rfl
@[simp] theorem State.setPstate_inputs (s : State) (v : PState) : (s.setPstate v).inputs = s.inputs := rfl
@[simp] theorem State.setPstate_exc (s : State) (v : PState) : (s.setPstate v).exc = s.exc := rfl
@[simp] theorem State.setPstate_mem (s : State) (v : PState) : (s.setPstate v).mem = s.mem := rfl
@[simp] theorem State.setPstate_supplied (s : State) (v : PState) : (s.setPstate v).supplied = s.supplied := rfl
@[simp] theorem State.setPstate_turns (s : State) (v : PState) : (s.setPstate v).turns = s.turns := rfl
@[simp] theorem State.setPstate_draws (s : State) (v : PState) : (s.setPstate v).draws = s.draws := rfl

/-! ### setInputs -/

@[simp] theorem State.setInputs_config (s : State) (v : Inputs) : (s.setInputs v).config = s.config := rfl
@[simp] theorem State.setInputs_x (s : State) (v : Inputs) : (s.setInputs v).x = s.x := rfl
@[simp] theorem State.setInputs_pc (s : State) (v : Inputs) : (s.setInputs v).pc = s.pc := rfl
@[simp] theorem State.setInputs_fpsr (s : State) (v : Inputs) : (s.setInputs v).fpsr = s.fpsr := rfl
@[simp] theorem State.setInputs_pstate (s : State) (v : Inputs) : (s.setInputs v).pstate = s.pstate := rfl
@[simp] theorem State.setInputs_inputs (s : State) (v : Inputs) : (s.setInputs v).inputs = v := rfl
@[simp] theorem State.setInputs_exc (s : State) (v : Inputs) : (s.setInputs v).exc = s.exc := rfl
@[simp] theorem State.setInputs_mem (s : State) (v : Inputs) : (s.setInputs v).mem = s.mem := rfl
@[simp] theorem State.setInputs_supplied (s : State) (v : Inputs) : (s.setInputs v).supplied = s.supplied := rfl
@[simp] theorem State.setInputs_turns (s : State) (v : Inputs) : (s.setInputs v).turns = s.turns := rfl
@[simp] theorem State.setInputs_draws (s : State) (v : Inputs) : (s.setInputs v).draws = s.draws := rfl

/-! ### setExc -/

@[simp] theorem State.setExc_config (s : State) (v : ExcRegs) : (s.setExc v).config = s.config := rfl
@[simp] theorem State.setExc_x (s : State) (v : ExcRegs) : (s.setExc v).x = s.x := rfl
@[simp] theorem State.setExc_pc (s : State) (v : ExcRegs) : (s.setExc v).pc = s.pc := rfl
@[simp] theorem State.setExc_fpsr (s : State) (v : ExcRegs) : (s.setExc v).fpsr = s.fpsr := rfl
@[simp] theorem State.setExc_pstate (s : State) (v : ExcRegs) : (s.setExc v).pstate = s.pstate := rfl
@[simp] theorem State.setExc_inputs (s : State) (v : ExcRegs) : (s.setExc v).inputs = s.inputs := rfl
@[simp] theorem State.setExc_exc (s : State) (v : ExcRegs) : (s.setExc v).exc = v := rfl
@[simp] theorem State.setExc_mem (s : State) (v : ExcRegs) : (s.setExc v).mem = s.mem := rfl
@[simp] theorem State.setExc_supplied (s : State) (v : ExcRegs) : (s.setExc v).supplied = s.supplied := rfl
@[simp] theorem State.setExc_turns (s : State) (v : ExcRegs) : (s.setExc v).turns = s.turns := rfl
@[simp] theorem State.setExc_draws (s : State) (v : ExcRegs) : (s.setExc v).draws = s.draws := rfl

/-! ### setMem -/

@[simp] theorem State.setMem_config (s : State) (v : Memory) : (s.setMem v).config = s.config := rfl
@[simp] theorem State.setMem_x (s : State) (v : Memory) : (s.setMem v).x = s.x := rfl
@[simp] theorem State.setMem_pc (s : State) (v : Memory) : (s.setMem v).pc = s.pc := rfl
@[simp] theorem State.setMem_fpsr (s : State) (v : Memory) : (s.setMem v).fpsr = s.fpsr := rfl
@[simp] theorem State.setMem_pstate (s : State) (v : Memory) : (s.setMem v).pstate = s.pstate := rfl
@[simp] theorem State.setMem_inputs (s : State) (v : Memory) : (s.setMem v).inputs = s.inputs := rfl
@[simp] theorem State.setMem_exc (s : State) (v : Memory) : (s.setMem v).exc = s.exc := rfl
@[simp] theorem State.setMem_mem (s : State) (v : Memory) : (s.setMem v).mem = v := rfl
@[simp] theorem State.setMem_supplied (s : State) (v : Memory) : (s.setMem v).supplied = s.supplied := rfl
@[simp] theorem State.setMem_turns (s : State) (v : Memory) : (s.setMem v).turns = s.turns := rfl
@[simp] theorem State.setMem_draws (s : State) (v : Memory) : (s.setMem v).draws = s.draws := rfl

/-! ### setSupplied -/

@[simp] theorem State.setSupplied_config (s : State) (v : List SuppliedStep) : (s.setSupplied v).config = s.config := rfl
@[simp] theorem State.setSupplied_x (s : State) (v : List SuppliedStep) : (s.setSupplied v).x = s.x := rfl
@[simp] theorem State.setSupplied_pc (s : State) (v : List SuppliedStep) : (s.setSupplied v).pc = s.pc := rfl
@[simp] theorem State.setSupplied_fpsr (s : State) (v : List SuppliedStep) : (s.setSupplied v).fpsr = s.fpsr := rfl
@[simp] theorem State.setSupplied_pstate (s : State) (v : List SuppliedStep) : (s.setSupplied v).pstate = s.pstate := rfl
@[simp] theorem State.setSupplied_inputs (s : State) (v : List SuppliedStep) : (s.setSupplied v).inputs = s.inputs := rfl
@[simp] theorem State.setSupplied_exc (s : State) (v : List SuppliedStep) : (s.setSupplied v).exc = s.exc := rfl
@[simp] theorem State.setSupplied_mem (s : State) (v : List SuppliedStep) : (s.setSupplied v).mem = s.mem := rfl
@[simp] theorem State.setSupplied_supplied (s : State) (v : List SuppliedStep) : (s.setSupplied v).supplied = v := rfl
@[simp] theorem State.setSupplied_turns (s : State) (v : List SuppliedStep) : (s.setSupplied v).turns = s.turns := rfl
@[simp] theorem State.setSupplied_draws (s : State) (v : List SuppliedStep) : (s.setSupplied v).draws = s.draws := rfl

/-! ### setTurns -/

@[simp] theorem State.setTurns_config (s : State) (v : List Turn) : (s.setTurns v).config = s.config := rfl
@[simp] theorem State.setTurns_x (s : State) (v : List Turn) : (s.setTurns v).x = s.x := rfl
@[simp] theorem State.setTurns_pc (s : State) (v : List Turn) : (s.setTurns v).pc = s.pc := rfl
@[simp] theorem State.setTurns_fpsr (s : State) (v : List Turn) : (s.setTurns v).fpsr = s.fpsr := rfl
@[simp] theorem State.setTurns_pstate (s : State) (v : List Turn) : (s.setTurns v).pstate = s.pstate := rfl
@[simp] theorem State.setTurns_inputs (s : State) (v : List Turn) : (s.setTurns v).inputs = s.inputs := rfl
@[simp] theorem State.setTurns_exc (s : State) (v : List Turn) : (s.setTurns v).exc = s.exc := rfl
@[simp] theorem State.setTurns_mem (s : State) (v : List Turn) : (s.setTurns v).mem = s.mem := rfl
@[simp] theorem State.setTurns_supplied (s : State) (v : List Turn) : (s.setTurns v).supplied = s.supplied := rfl
@[simp] theorem State.setTurns_turns (s : State) (v : List Turn) : (s.setTurns v).turns = v := rfl
@[simp] theorem State.setTurns_draws (s : State) (v : List Turn) : (s.setTurns v).draws = s.draws := rfl

/-! ### setDraws -/

@[simp] theorem State.setDraws_config (s : State) (v : Nat) : (s.setDraws v).config = s.config := rfl
@[simp] theorem State.setDraws_x (s : State) (v : Nat) : (s.setDraws v).x = s.x := rfl
@[simp] theorem State.setDraws_pc (s : State) (v : Nat) : (s.setDraws v).pc = s.pc := rfl
@[simp] theorem State.setDraws_fpsr (s : State) (v : Nat) : (s.setDraws v).fpsr = s.fpsr := rfl
@[simp] theorem State.setDraws_pstate (s : State) (v : Nat) : (s.setDraws v).pstate = s.pstate := rfl
@[simp] theorem State.setDraws_inputs (s : State) (v : Nat) : (s.setDraws v).inputs = s.inputs := rfl
@[simp] theorem State.setDraws_exc (s : State) (v : Nat) : (s.setDraws v).exc = s.exc := rfl
@[simp] theorem State.setDraws_mem (s : State) (v : Nat) : (s.setDraws v).mem = s.mem := rfl
@[simp] theorem State.setDraws_supplied (s : State) (v : Nat) : (s.setDraws v).supplied = s.supplied := rfl
@[simp] theorem State.setDraws_turns (s : State) (v : Nat) : (s.setDraws v).turns = s.turns := rfl
@[simp] theorem State.setDraws_draws (s : State) (v : Nat) : (s.setDraws v).draws = v := rfl

/-! ### advancePc -/

@[simp] theorem State.advancePc_config (s : State) : s.advancePc.config = s.config := rfl
@[simp] theorem State.advancePc_x (s : State) : s.advancePc.x = s.x := rfl
@[simp] theorem State.advancePc_pc (s : State) : s.advancePc.pc = s.pc + 4 := rfl
@[simp] theorem State.advancePc_fpsr (s : State) : s.advancePc.fpsr = s.fpsr := rfl
@[simp] theorem State.advancePc_pstate (s : State) : s.advancePc.pstate = s.pstate := rfl
@[simp] theorem State.advancePc_inputs (s : State) : s.advancePc.inputs = s.inputs := rfl
@[simp] theorem State.advancePc_exc (s : State) : s.advancePc.exc = s.exc := rfl
@[simp] theorem State.advancePc_mem (s : State) : s.advancePc.mem = s.mem := rfl
@[simp] theorem State.advancePc_supplied (s : State) : s.advancePc.supplied = s.supplied := rfl
@[simp] theorem State.advancePc_turns (s : State) : s.advancePc.turns = s.turns := rfl
@[simp] theorem State.advancePc_draws (s : State) : s.advancePc.draws = s.draws := rfl

/-! ### writeX and writeXs: only the general registers change -/

@[simp] theorem State.writeX_config (s : State) (t : RegNum) (v : Word) : (s.writeX t v).config = s.config := by
  unfold State.writeX; split <;> rfl

@[simp] theorem State.writeX_pc (s : State) (t : RegNum) (v : Word) : (s.writeX t v).pc = s.pc := by
  unfold State.writeX; split <;> rfl

@[simp] theorem State.writeX_fpsr (s : State) (t : RegNum) (v : Word) : (s.writeX t v).fpsr = s.fpsr := by
  unfold State.writeX; split <;> rfl

@[simp] theorem State.writeX_pstate (s : State) (t : RegNum) (v : Word) : (s.writeX t v).pstate = s.pstate := by
  unfold State.writeX; split <;> rfl

@[simp] theorem State.writeX_inputs (s : State) (t : RegNum) (v : Word) : (s.writeX t v).inputs = s.inputs := by
  unfold State.writeX; split <;> rfl

@[simp] theorem State.writeX_exc (s : State) (t : RegNum) (v : Word) : (s.writeX t v).exc = s.exc := by
  unfold State.writeX; split <;> rfl

@[simp] theorem State.writeX_mem (s : State) (t : RegNum) (v : Word) : (s.writeX t v).mem = s.mem := by
  unfold State.writeX; split <;> rfl

@[simp] theorem State.writeX_supplied (s : State) (t : RegNum) (v : Word) : (s.writeX t v).supplied = s.supplied := by
  unfold State.writeX; split <;> rfl

@[simp] theorem State.writeX_turns (s : State) (t : RegNum) (v : Word) : (s.writeX t v).turns = s.turns := by
  unfold State.writeX; split <;> rfl

@[simp] theorem State.writeX_draws (s : State) (t : RegNum) (v : Word) : (s.writeX t v).draws = s.draws := by
  unfold State.writeX; split <;> rfl

@[simp] theorem State.writeXs_config (s : State) (ws : List (RegNum × Word)) : (s.writeXs ws).config = s.config := by
  induction ws generalizing s with
  | nil => rfl
  | cons w rest ih => simp [State.writeXs, ih]

@[simp] theorem State.writeXs_pc (s : State) (ws : List (RegNum × Word)) : (s.writeXs ws).pc = s.pc := by
  induction ws generalizing s with
  | nil => rfl
  | cons w rest ih => simp [State.writeXs, ih]

@[simp] theorem State.writeXs_fpsr (s : State) (ws : List (RegNum × Word)) : (s.writeXs ws).fpsr = s.fpsr := by
  induction ws generalizing s with
  | nil => rfl
  | cons w rest ih => simp [State.writeXs, ih]

@[simp] theorem State.writeXs_pstate (s : State) (ws : List (RegNum × Word)) : (s.writeXs ws).pstate = s.pstate := by
  induction ws generalizing s with
  | nil => rfl
  | cons w rest ih => simp [State.writeXs, ih]

@[simp] theorem State.writeXs_inputs (s : State) (ws : List (RegNum × Word)) : (s.writeXs ws).inputs = s.inputs := by
  induction ws generalizing s with
  | nil => rfl
  | cons w rest ih => simp [State.writeXs, ih]

@[simp] theorem State.writeXs_exc (s : State) (ws : List (RegNum × Word)) : (s.writeXs ws).exc = s.exc := by
  induction ws generalizing s with
  | nil => rfl
  | cons w rest ih => simp [State.writeXs, ih]

@[simp] theorem State.writeXs_mem (s : State) (ws : List (RegNum × Word)) : (s.writeXs ws).mem = s.mem := by
  induction ws generalizing s with
  | nil => rfl
  | cons w rest ih => simp [State.writeXs, ih]

@[simp] theorem State.writeXs_supplied (s : State) (ws : List (RegNum × Word)) : (s.writeXs ws).supplied = s.supplied := by
  induction ws generalizing s with
  | nil => rfl
  | cons w rest ih => simp [State.writeXs, ih]

@[simp] theorem State.writeXs_turns (s : State) (ws : List (RegNum × Word)) : (s.writeXs ws).turns = s.turns := by
  induction ws generalizing s with
  | nil => rfl
  | cons w rest ih => simp [State.writeXs, ih]

@[simp] theorem State.writeXs_draws (s : State) (ws : List (RegNum × Word)) : (s.writeXs ws).draws = s.draws := by
  induction ws generalizing s with
  | nil => rfl
  | cons w rest ih => simp [State.writeXs, ih]

/-! ### moveFromFpsr and moveToFpsr -/

@[simp] theorem State.moveFromFpsr_config (t : RegNum) (s : State) : (s.moveFromFpsr t).config = s.config := by
  simp [State.moveFromFpsr]

@[simp] theorem State.moveFromFpsr_pc (t : RegNum) (s : State) : (s.moveFromFpsr t).pc = s.pc := by
  simp [State.moveFromFpsr]

@[simp] theorem State.moveFromFpsr_fpsr (t : RegNum) (s : State) : (s.moveFromFpsr t).fpsr = s.fpsr := by
  simp [State.moveFromFpsr]

@[simp] theorem State.moveFromFpsr_pstate (t : RegNum) (s : State) : (s.moveFromFpsr t).pstate = s.pstate := by
  simp [State.moveFromFpsr]

@[simp] theorem State.moveFromFpsr_inputs (t : RegNum) (s : State) : (s.moveFromFpsr t).inputs = s.inputs := by
  simp [State.moveFromFpsr]

@[simp] theorem State.moveFromFpsr_exc (t : RegNum) (s : State) : (s.moveFromFpsr t).exc = s.exc := by
  simp [State.moveFromFpsr]

@[simp] theorem State.moveFromFpsr_mem (t : RegNum) (s : State) : (s.moveFromFpsr t).mem = s.mem := by
  simp [State.moveFromFpsr]

@[simp] theorem State.moveFromFpsr_supplied (t : RegNum) (s : State) : (s.moveFromFpsr t).supplied = s.supplied := by
  simp [State.moveFromFpsr]

@[simp] theorem State.moveFromFpsr_turns (t : RegNum) (s : State) : (s.moveFromFpsr t).turns = s.turns := by
  simp [State.moveFromFpsr]

@[simp] theorem State.moveFromFpsr_draws (t : RegNum) (s : State) : (s.moveFromFpsr t).draws = s.draws + 1 := by
  simp [State.moveFromFpsr]

@[simp] theorem State.moveToFpsr_config (t : RegNum) (s : State) : (s.moveToFpsr t).config = s.config := rfl
@[simp] theorem State.moveToFpsr_x (t : RegNum) (s : State) : (s.moveToFpsr t).x = s.x := rfl
@[simp] theorem State.moveToFpsr_pc (t : RegNum) (s : State) : (s.moveToFpsr t).pc = s.pc := rfl
@[simp] theorem State.moveToFpsr_fpsr (t : RegNum) (s : State) : (s.moveToFpsr t).fpsr = s.readX t := rfl
@[simp] theorem State.moveToFpsr_pstate (t : RegNum) (s : State) : (s.moveToFpsr t).pstate = s.pstate := rfl
@[simp] theorem State.moveToFpsr_inputs (t : RegNum) (s : State) : (s.moveToFpsr t).inputs = s.inputs := rfl
@[simp] theorem State.moveToFpsr_exc (t : RegNum) (s : State) : (s.moveToFpsr t).exc = s.exc := rfl
@[simp] theorem State.moveToFpsr_mem (t : RegNum) (s : State) : (s.moveToFpsr t).mem = s.mem := rfl
@[simp] theorem State.moveToFpsr_supplied (t : RegNum) (s : State) : (s.moveToFpsr t).supplied = s.supplied := rfl
@[simp] theorem State.moveToFpsr_turns (t : RegNum) (s : State) : (s.moveToFpsr t).turns = s.turns := rfl
@[simp] theorem State.moveToFpsr_draws (t : RegNum) (s : State) : (s.moveToFpsr t).draws = s.draws := rfl

/-! ### takeException and applyReset -/

@[simp] theorem State.takeException_config (t : TrapTarget) (ec : BitVec 6) (s : State) :
    (s.takeException t ec).config = s.config := rfl
@[simp] theorem State.takeException_x (t : TrapTarget) (ec : BitVec 6) (s : State) :
    (s.takeException t ec).x = s.x := rfl
@[simp] theorem State.takeException_pc (t : TrapTarget) (ec : BitVec 6) (s : State) :
    (s.takeException t ec).pc = (s.exc.get (s.inputs.routeTrap t)).syncVector := rfl
@[simp] theorem State.takeException_fpsr (t : TrapTarget) (ec : BitVec 6) (s : State) :
    (s.takeException t ec).fpsr = s.fpsr := rfl
@[simp] theorem State.takeException_pstate (t : TrapTarget) (ec : BitVec 6) (s : State) :
    (s.takeException t ec).pstate = { s.pstate with el := (s.inputs.routeTrap t).toEL } := rfl
@[simp] theorem State.takeException_inputs (t : TrapTarget) (ec : BitVec 6) (s : State) :
    (s.takeException t ec).inputs = s.inputs := rfl
@[simp] theorem State.takeException_exc (t : TrapTarget) (ec : BitVec 6) (s : State) :
    (s.takeException t ec).exc = s.exc.set (s.inputs.routeTrap t) ((s.exc.get (s.inputs.routeTrap t)).saveTrap s.pc s.pstate ec) := rfl
@[simp] theorem State.takeException_mem (t : TrapTarget) (ec : BitVec 6) (s : State) :
    (s.takeException t ec).mem = s.mem := rfl
@[simp] theorem State.takeException_supplied (t : TrapTarget) (ec : BitVec 6) (s : State) :
    (s.takeException t ec).supplied = s.supplied := rfl
@[simp] theorem State.takeException_turns (t : TrapTarget) (ec : BitVec 6) (s : State) :
    (s.takeException t ec).turns = s.turns := rfl
@[simp] theorem State.takeException_draws (t : TrapTarget) (ec : BitVec 6) (s : State) :
    (s.takeException t ec).draws = s.draws := rfl

@[simp] theorem State.applyReset_config (k : ResetKind) (d : ResetDraw) (s : State) :
    (s.applyReset k d).config = s.config := rfl
@[simp] theorem State.applyReset_x (k : ResetKind) (d : ResetDraw) (s : State) :
    (s.applyReset k d).x = d.x := rfl
@[simp] theorem State.applyReset_pc (k : ResetKind) (d : ResetDraw) (s : State) :
    (s.applyReset k d).pc = d.pc := rfl
@[simp] theorem State.applyReset_fpsr (k : ResetKind) (d : ResetDraw) (s : State) :
    (s.applyReset k d).fpsr = d.fpsr := rfl
@[simp] theorem State.applyReset_pstate (k : ResetKind) (d : ResetDraw) (s : State) :
    (s.applyReset k d).pstate = d.pstate := rfl
@[simp] theorem State.applyReset_inputs (k : ResetKind) (d : ResetDraw) (s : State) :
    (s.applyReset k d).inputs = d.inputs := rfl
@[simp] theorem State.applyReset_exc (k : ResetKind) (d : ResetDraw) (s : State) :
    (s.applyReset k d).exc = d.exc := rfl
@[simp] theorem State.applyReset_mem (k : ResetKind) (d : ResetDraw) (s : State) :
    (s.applyReset k d).mem = s.mem := rfl
@[simp] theorem State.applyReset_supplied (k : ResetKind) (d : ResetDraw) (s : State) :
    (s.applyReset k d).supplied = s.supplied := rfl
@[simp] theorem State.applyReset_turns (k : ResetKind) (d : ResetDraw) (s : State) :
    (s.applyReset k d).turns = s.turns := rfl
@[simp] theorem State.applyReset_draws (k : ResetKind) (d : ResetDraw) (s : State) :
    (s.applyReset k d).draws = s.draws := rfl

end Sys2Proof.Machine
end

