-- ==== Sys2Proof/Laws/Access.lean ====
section
/-! SUPPORT. What a direct access can do: its three outcomes, and every next state it can answer. -/

namespace Sys2Proof.Machine

theorem accessFpsr_allow {act : State → State} {s : State} (h : s.checkAccess = .allow) :
    s.accessFpsr act = .next (act s).advancePc := by
  simp [State.accessFpsr, h]

theorem accessFpsr_trap {act : State → State} {s : State} {t : TrapTarget} {ec : BitVec 6}
    (h : s.checkAccess = .trap t ec) : s.accessFpsr act = s.systemAccessTrap t ec := by
  simp [State.accessFpsr, h]

theorem accessFpsr_undef {act : State → State} {s : State} (h : s.checkAccess = .undef) :
    s.accessFpsr act = .fault (.undefined s.pc) := by
  simp [State.accessFpsr, h, State.raiseUndefined]

/-- A trap answers a next state only where it is taken, and then the one of R103. -/
theorem systemAccessTrap_next {t : TrapTarget} {ec : BitVec 6} {s u : State}
    (h : s.systemAccessTrap t ec = .next u) : s.config.trapEntry = .taken ∧ u = s.takeException t ec := by
  simp only [State.systemAccessTrap] at h
  cases e : s.config.trapEntry <;> simp_all

/-- A direct access answers a next state in two ways: the move with the pc moved on, or a trap taken. -/
theorem accessFpsr_next {act : State → State} {s u : State} (h : s.accessFpsr act = .next u) :
    (s.checkAccess = .allow ∧ u = (act s).advancePc)
      ∨ ∃ t ec, s.checkAccess = .trap t ec ∧ s.config.trapEntry = .taken ∧ u = s.takeException t ec := by
  cases e : s.checkAccess with
  | allow => rw [accessFpsr_allow e] at h; exact .inl ⟨rfl, (Host.Outcome.next.inj h).symm⟩
  | trap t ec =>
    rw [accessFpsr_trap e] at h
    exact .inr ⟨t, ec, rfl, systemAccessTrap_next h⟩
  | undef => rw [accessFpsr_undef e] at h; cases h

/-- The move of an instruction on the success arm of the check (R63, R64). -/
def Instr.act : Instr → State → State
  | .mrsFpsr t => State.moveFromFpsr t
  | .msrFpsr t => State.moveToFpsr t

/-- Every instruction is one direct access. -/
theorem exec_eq_accessFpsr (i : Instr) (s : State) : exec i s = s.accessFpsr (Instr.act i) := by
  cases i <;> rfl

/-- Neither instruction writes the program text or a parameter, on any path to a next state. -/
theorem exec_keeps_text_and_config {i : Instr} {s u : State} (h : exec i s = .next u) :
    u.mem = s.mem ∧ u.config = s.config ∧ u.supplied = s.supplied ∧ u.turns = s.turns ∧ u.inputs = s.inputs := by
  rw [exec_eq_accessFpsr] at h
  rcases accessFpsr_next h with ⟨-, rfl⟩ | ⟨t, ec, -, -, rfl⟩
  · cases i <;> simp [Instr.act]
  · simp

end Sys2Proof.Machine
end

