-- ==== Sys2Proof/Laws/Surrounding.lean ====
section
/-! SUPPORT. What an instruction of the surrounding model can do. -/

namespace Sys2Proof.Machine

/-- A supplied step answers a next state only where it is well formed and traps nothing. -/
theorem runStep_next {s u : State} {st : SuppliedStep} {q : List SuppliedStep} (h : s.runStep st q = .next u) :
    st.wellFormed = true ∧ (s.trappedBy st).isEmpty = true ∧ u = s.completeSupplied st q := by
  simp only [State.runStep] at h
  split at h
  · split at h
    · exact ⟨‹_›, ‹_›, (Host.Outcome.next.inj h).symm⟩
    · cases h
  · cases h

/-- The surrounding model's instruction answers a next state only from the step it supplied. -/
theorem runSurrounding_next {s u : State} {w : InstrWord} (h : s.runSurrounding w = .next u) :
    ∃ st q, s.supplied = st :: q ∧ st.wellFormed = true ∧ (s.trappedBy st).isEmpty = true
      ∧ u = s.completeSupplied st q := by
  simp only [State.runSurrounding] at h
  split at h
  · cases h
  · rename_i st q hq
    exact ⟨st, q, hq, runStep_next h⟩

/-! Each field of the completed step. -/

section
variable (s : State) (st : SuppliedStep) (q : List SuppliedStep)

@[simp] theorem completeSupplied_config : (s.completeSupplied st q).config = s.config := by simp [State.completeSupplied]
@[simp] theorem completeSupplied_pc : (s.completeSupplied st q).pc = st.nextPC := by simp [State.completeSupplied]
@[simp] theorem completeSupplied_fpsr : (s.completeSupplied st q).fpsr = s.fpsrAfter st := by
  simp [State.completeSupplied]
@[simp] theorem completeSupplied_pstate : (s.completeSupplied st q).pstate = s.pstate.setCompare st.compare := by
  simp [State.completeSupplied]
@[simp] theorem completeSupplied_inputs : (s.completeSupplied st q).inputs = s.inputs := by simp [State.completeSupplied]
@[simp] theorem completeSupplied_exc : (s.completeSupplied st q).exc = s.exc := by simp [State.completeSupplied]
@[simp] theorem completeSupplied_mem : (s.completeSupplied st q).mem = s.mem := by simp [State.completeSupplied]
@[simp] theorem completeSupplied_supplied : (s.completeSupplied st q).supplied = q := by simp [State.completeSupplied]
@[simp] theorem completeSupplied_turns : (s.completeSupplied st q).turns = s.turns := by simp [State.completeSupplied]
@[simp] theorem completeSupplied_draws : (s.completeSupplied st q).draws = s.draws := by simp [State.completeSupplied]

end

end Sys2Proof.Machine
end

