-- ==== Sys2Proof/Laws/Cycle.lean ====
section
/-! SUPPORT. Every way a step answers a next state. -/

namespace Sys2Proof.Machine

/-- The PE's step answers a next state in two ways: an FPSR access, or a supplied step. -/
theorem stepPE_next {p u : State} (h : p.stepPE = .next u) :
    (∃ i bytes rest, p.fetch = .ok bytes ∧ decode bytes = .ok (i, rest) ∧ exec i p = .next u)
      ∨ ∃ bytes e st q, p.fetch = .ok bytes ∧ decode bytes = .error e ∧ p.supplied = st :: q
          ∧ st.wellFormed = true ∧ (p.trappedBy st).isEmpty = true ∧ u = p.completeSupplied st q := by
  simp only [State.stepPE] at h
  split at h
  · cases h
  · rename_i bytes hb
    split at h
    · rename_i i rest hd
      exact .inl ⟨i, bytes, rest, hb, hd, h⟩
    · rename_i e hd
      obtain ⟨st, q, hq, hw, ht, hu⟩ := runSurrounding_next h
      exact .inr ⟨bytes, e, st, q, hb, hd, hq, hw, ht, hu⟩

/-- A step answers a next state in three ways: the environment acts, the PE executes an FPSR access, or the PE executes an
instruction of the surrounding model. -/
theorem step_next {s u : State} (h : step s = .next u) :
    (∃ a q, s.turns = .environment a :: q ∧ u = (s.setTurns q).applyAction a)
      ∨ (∃ p i, s.Runs p i ∧ exec i p = .next u)
      ∨ ∃ p st q, s.RunsOther p ∧ p.supplied = st :: q ∧ st.wellFormed = true
          ∧ (p.trappedBy st).isEmpty = true ∧ u = p.completeSupplied st q := by
  have pe : ∀ p, s.peTurn = some p → p.stepPE = .next u → (∃ p i, s.Runs p i ∧ exec i p = .next u)
      ∨ ∃ p st q, s.RunsOther p ∧ p.supplied = st :: q ∧ st.wellFormed = true
          ∧ (p.trappedBy st).isEmpty = true ∧ u = p.completeSupplied st q := by
    intro p hp hs
    rcases stepPE_next hs with ⟨i, bytes, rest, hb, hd, he⟩ | ⟨bytes, e, st, q, hb, hd, hq, hw, ht, hu⟩
    · exact .inl ⟨p, i, ⟨hp, bytes, rest, hb, hd⟩, he⟩
    · exact .inr ⟨p, st, q, ⟨hp, bytes, e, hb, hd⟩, hq, hw, ht, hu⟩
  unfold step State.move at h
  split at h
  · exact .inr (pe s (by simp [State.peTurn, *]) h)
  · exact .inr (pe _ (by simp [State.peTurn, *]) h)
  · rename_i a q hq
    exact .inl ⟨a, q, hq, (Host.Outcome.next.inj h).symm⟩

/-- The state the PE executes from differs from the machine's state in the turns alone. -/
theorem peTurn_eq {s p : State} (h : s.peTurn = some p) : p = s.setTurns p.turns := by
  unfold State.peTurn at h
  split at h <;> first | (cases h; rfl) | cases h

/-- Where the PE moves, the step is its step. -/
theorem step_of_peTurn {s p : State} (h : s.peTurn = some p) : step s = p.stepPE := by
  unfold State.peTurn at h
  unfold step State.move
  split at h <;> first | (cases h; simp [*]) | cases h

end Sys2Proof.Machine
end

