-- ==== Sys2Proof/Laws/Flags.lean ====
section
/-! SUPPORT. The bits of FPSR: masks, the direct read, and the update set. -/

namespace Sys2Proof.Machine

/-- The two masks are complements. -/
theorem res0Mask_eq_not (c : Config) : res0Mask c = ~~~ fieldMask c := by
  unfold res0Mask fieldMask; split <;> rfl

/-- A field that exists is in FIELD_MASK. -/
theorem fieldMask_of_present {c : Config} {f : FpsrField} (h : f.present c = true) :
    (fieldMask c).getLsbD f.bit = true := by
  unfold fieldMask
  cases hc : c.haveAArch32FP <;> cases f <;> simp_all [FpsrField.present, FpsrField.bit]

/-- Whatever the policy and the draw, a direct read returns every field as stored. -/
theorem field_readFpsrWith {c : Config} (draw w : Word) {f : FpsrField} (h : f.present c = true) :
    FpsrField.of (readFpsrWith c draw w) f = FpsrField.of w f := by
  have hf := fieldMask_of_present h
  simp only [FpsrField.of, readFpsrWith]
  cases c.res0Policy <;> simp [hf, res0Mask_eq_not]

/-- One bit of a conditional bit. -/
theorem getLsbD_bitIf (b : Bool) (n i : Nat) (hn : n < 64) : (bitIf b n).getLsbD i = (b && decide (i = n)) := by
  unfold bitIf
  cases b
  · simp
  · by_cases h : i = n
    · subst h; simp [hn]
    · rcases Nat.lt_or_gt_of_ne h with lt | gt
      · simp [h, lt]
      · have : i - n ≠ 0 := by omega
        simp only [if_true, BitVec.getLsbD_shiftLeft, BitVec.getLsbD_one, h, decide_false, Bool.and_false, this]

/-- The bits an instruction sets: each one under its own condition, and no other bit. -/
theorem getLsbD_eventSet (ev : EventRecord) (f : FPCR) (ftz : Bool) (i : Nat) :
    (eventSet ev f ftz).getLsbD i =
      ((ev.io && !f.ioe && decide (i = 0)) || (ev.dz && !f.dze && decide (i = 1))
        || (ev.overflow && !f.ofe && decide (i = 2)) || (ev.uf && (!f.ufe || ftz) && decide (i = 3))
        || (ev.ix && !f.ixe && decide (i = 4)) || (ev.idn && !f.ide && decide (i = 7))
        || (ev.sat && decide (i = 27))) := by
  unfold eventSet
  simp only [BitVec.getLsbD_or]
  rw [getLsbD_bitIf _ 0 _ (by omega), getLsbD_bitIf _ 1 _ (by omega), getLsbD_bitIf _ 2 _ (by omega),
    getLsbD_bitIf _ 3 _ (by omega), getLsbD_bitIf _ 4 _ (by omega), getLsbD_bitIf _ 7 _ (by omega),
    getLsbD_bitIf _ 27 _ (by omega)]

/-- The update is an OR: no bit is cleared. -/
theorem getLsbD_updateFpsr (ev : EventRecord) (f : FPCR) (ftz : Bool) (w : Word) (i : Nat) :
    (updateFpsr ev f ftz w).getLsbD i = (w.getLsbD i || (eventSet ev f ftz).getLsbD i) := by
  simp [updateFpsr]

/-- An event of an instruction is an event of one of its lanes (R83). -/
theorem ofLanes_eq_any (ls : List EventRecord) :
    (EventRecord.ofLanes ls).io = ls.any (·.io) ∧ (EventRecord.ofLanes ls).dz = ls.any (·.dz)
      ∧ (EventRecord.ofLanes ls).overflow = ls.any (·.overflow) ∧ (EventRecord.ofLanes ls).uf = ls.any (·.uf)
      ∧ (EventRecord.ofLanes ls).ix = ls.any (·.ix) ∧ (EventRecord.ofLanes ls).idn = ls.any (·.idn)
      ∧ (EventRecord.ofLanes ls).sat = ls.any (·.sat) := by
  induction ls with
  | nil => simp [EventRecord.ofLanes, EventRecord.none]
  | cons e rest ih => simp [EventRecord.ofLanes, EventRecord.join, ih]

/-- The trapped kinds are exactly the trapped exceptions (R101). -/
theorem mem_trappedKinds (ev : EventRecord) (f : FPCR) (ftz : Bool) (x : FPException) :
    x ∈ trappedKinds ev f ftz ↔ ev.trapped f ftz x = true := by
  cases x <;> simp [trappedKinds]

end Sys2Proof.Machine
end

