-- ==== Sys2Proof/Laws/Memory.lean ====
section
/-! SUPPORT. The program text: reads after writes, and every operation keeps the canonical form. -/

namespace Sys2Proof.Machine

theorem Memory.read_write_same (a : Nat) (b : Byte) (m : Memory) : Memory.read a (Memory.write a b m) = some b := by
  induction m with
  | nil => simp [Memory.write, Memory.read]
  | cons c rest ih =>
    simp only [Memory.write]
    split
    · simp [Memory.read]
    · split <;> simp_all [Memory.read]

theorem Memory.read_write_other {a a' : Nat} (h : a' ≠ a) (b : Byte) (m : Memory) :
    Memory.read a' (Memory.write a b m) = Memory.read a' m := by
  induction m with
  | nil => simp [Memory.write, Memory.read, h]
  | cons c rest ih =>
    simp only [Memory.write]
    split
    · simp [Memory.read, h]
    · split
      · rename_i _ e; subst e; simp [Memory.read, h]
      · simp [Memory.read, ih]

theorem Memory.write_risingFrom {lo a : Nat} (b : Byte) {m : Memory} (hlo : lo ≤ a) (ha : a < 2 ^ 64)
    (h : Memory.risingFrom lo m = true) : Memory.risingFrom lo (Memory.write a b m) = true := by
  induction m generalizing lo with
  | nil => simp only [Memory.write, Memory.risingFrom, hlo, ha, decide_true, Bool.and_self]
  | cons c rest ih =>
    simp only [Memory.risingFrom, Bool.and_eq_true, decide_eq_true_eq] at h
    simp only [Memory.write]
    split
    · rename_i lt
      simp only [Memory.risingFrom, hlo, ha, h, Nat.succ_le_of_lt lt, decide_true, Bool.and_self]
    · split
      · rename_i _ e; subst e; simp only [Memory.risingFrom, h, decide_true, Bool.and_self]
      · simp only [Memory.risingFrom, h.1, Bool.true_and, decide_true]
        exact ih (by omega) h.2

/-- A write inside the address space keeps the canonical form. -/
theorem Memory.write_wf {a : Nat} (b : Byte) {m : Memory} (ha : a < 2 ^ 64) (h : Memory.wf m = true) :
    Memory.wf (Memory.write a b m) = true :=
  Memory.write_risingFrom b (Nat.zero_le a) ha h

/-- Consecutive bytes keep the canonical form. -/
theorem Memory.writeBytes_wf {a : Nat} {bs : List Byte} {m : Memory} (h : Memory.wf m = true) :
    Memory.wf (Memory.writeBytes a bs m) = true := by
  induction bs generalizing a m with
  | nil => exact h
  | cons b rest ih => exact ih (Memory.write_wf b (Nat.mod_lt _ (by decide)) h)

/-- A program keeps the canonical form, wherever it stands. -/
theorem Memory.writeWords_wf {a : Nat} {ws : List InstrWord} {m : Memory} (h : Memory.wf m = true) :
    Memory.wf (Memory.writeWords a ws m) = true := by
  induction ws generalizing a m with
  | nil => exact h
  | cons w rest ih => exact ih (Memory.writeBytes_wf h)

/-! The fields after a load. -/

@[simp] theorem State.loadProgram_mem (s : State) (entry : Word) (words : List InstrWord) :
    (s.loadProgram entry words).mem = Memory.writeWords entry.toNat words [] := rfl
@[simp] theorem State.loadProgram_pc (s : State) (entry : Word) (words : List InstrWord) :
    (s.loadProgram entry words).pc = entry := rfl
@[simp] theorem State.loadProgram_turns (s : State) (entry : Word) (words : List InstrWord) :
    (s.loadProgram entry words).turns = s.turns := rfl

/-- A loaded program is canonical. -/
theorem State.loadProgram_mem_wf (s : State) (entry : Word) (words : List InstrWord) :
    Memory.wf (s.loadProgram entry words).mem = true :=
  Memory.writeWords_wf rfl

/-- A byte outside consecutive bytes written reads as before. -/
theorem Memory.read_writeBytes_other {a a' : Nat} {bs : List Byte} (m : Memory)
    (h : ∀ i < bs.length, a' ≠ (a + i) % 2 ^ 64) :
    Memory.read a' (Memory.writeBytes a bs m) = Memory.read a' m := by
  induction bs generalizing a m with
  | nil => rfl
  | cons b rest ih =>
    simp only [List.length_cons] at h
    rw [Memory.writeBytes, ih, Memory.read_write_other (show a' ≠ a % 2 ^ 64 from h 0 (by omega))]
    intro i hi
    rw [Nat.add_assoc, Nat.add_comm 1 i]
    exact h (i + 1) (by omega)

/-- Consecutive words as the bytes they are. -/
theorem Memory.writeWords_eq_writeBytes (a : Nat) (ws : List InstrWord) (m : Memory) :
    Memory.writeWords a ws m = Memory.writeBytes a (ws.flatMap bytesOfWord) m := by
  induction ws generalizing a m with
  | nil => rfl
  | cons w rest ih => rw [Memory.writeWords, ih]; simp [bytesOfWord, Memory.writeBytes]

/-- A byte of consecutive bytes written, where they fit into the address space once, reads as what was written. -/
theorem Memory.read_writeBytes {a i : Nat} {bs : List Byte} (m : Memory) (hlen : bs.length ≤ 2 ^ 64) (hi : i < bs.length) :
    Memory.read ((a + i) % 2 ^ 64) (Memory.writeBytes a bs m) = some bs[i] := by
  induction bs generalizing a i m with
  | nil => simp at hi
  | cons b rest ih =>
    simp only [List.length_cons] at hi hlen
    cases i with
    | zero =>
      rw [Memory.writeBytes, Memory.read_writeBytes_other _ (by intro k hk; omega)]
      exact Memory.read_write_same _ _ _
    | succ i =>
      rw [Memory.writeBytes, show a + (i + 1) = a + 1 + i by omega, ih _ (by omega) (by omega)]
      rfl

/-- A program that ends above the top of the address space lists both ends of it. -/
theorem Memory.acrossTop_writeWords {a : Nat} {ws : List InstrWord} (m : Memory) (ha : a < 2 ^ 64)
    (hlen : 4 * ws.length ≤ 2 ^ 64) (h : 2 ^ 64 < a + 4 * ws.length) :
    Memory.acrossTop (Memory.writeWords a ws m) = true := by
  have hl : (ws.flatMap bytesOfWord).length = 4 * ws.length := by
    clear hlen h
    induction ws with
    | nil => rfl
    | cons w rest ih => simp [bytesOfWord, ih]; omega
  have top := Memory.read_writeBytes (a := a) (i := 2 ^ 64 - 1 - a) (bs := ws.flatMap bytesOfWord) m (by omega) (by omega)
  have zero := Memory.read_writeBytes (a := a) (i := 2 ^ 64 - a) (bs := ws.flatMap bytesOfWord) m (by omega) (by omega)
  rw [show (a + (2 ^ 64 - 1 - a)) % 2 ^ 64 = 2 ^ 64 - 1 by omega] at top
  rw [show (a + (2 ^ 64 - a)) % 2 ^ 64 = 0 by omega] at zero
  simp only [Memory.acrossTop, Memory.writeWords_eq_writeBytes, top, zero, Option.isSome_some, Bool.and_self]

/-- The four bytes of a word stand where they were written, least significant first (R55). -/
theorem Memory.readWordBytes_writeBytes {a : Nat} (b0 b1 b2 b3 : Byte) (m : Memory) (ha : a + 4 ≤ 2 ^ 64) :
    Memory.readWordBytes a (Memory.writeBytes a [b0, b1, b2, b3] m) = some (b0, b1, b2, b3) := by
  have at_ : ∀ i (hi : i < 4), Memory.read (a + i) (Memory.writeBytes a [b0, b1, b2, b3] m) = some [b0, b1, b2, b3][i] := by
    intro i hi
    have h := Memory.read_writeBytes (a := a) (i := i) (bs := [b0, b1, b2, b3]) m (by simp) hi
    rwa [Nat.mod_eq_of_lt (by omega)] at h
  have e0 := at_ 0 (by omega)
  have e1 := at_ 1 (by omega)
  have e2 := at_ 2 (by omega)
  have e3 := at_ 3 (by omega)
  simp only [Nat.add_zero, List.getElem_cons_zero, List.getElem_cons_succ] at e0 e1 e2 e3
  simp only [Memory.readWordBytes, e0, e1, e2, e3]

/-- Reset memory is canonical. -/
theorem reset_mem_wf : Memory.wf State.reset.mem = true := rfl

/-- The pc at which a word is placed is a multiple of 4. -/
theorem State.placeWord_pc (s : State) (w : InstrWord) : (s.placeWord w).pc = s.pc &&& ~~~3#64 := rfl

/-- Placing a word keeps the canonical form. -/
theorem State.placeWord_mem_wf (s : State) (w : InstrWord) (h : Memory.wf s.mem = true) :
    Memory.wf (s.placeWord w).mem = true :=
  Memory.writeBytes_wf h

end Sys2Proof.Machine
end

