-- ==== Sys2Proof/Laws/PerInstr.lean ====
section
/-! SUPPORT. For each instruction: its word carries every field of R55's table at its place. -/

namespace Sys2Proof.Laws

/-- The fields of an instruction's word: the format's fixed bits, the direction, FPSR's selector, and the operand (R54 to
R57). -/
def EncodedFields.Statement (i : Instr) : Prop :=
  fixedField (encodeWord i) = 0b1101010100 ∧ op0HighField (encodeWord i) = 0b1 ∧ dirField (encodeWord i) = i.dirBit
    ∧ selectsFpsr (encodeWord i) = true ∧ rtField (encodeWord i) = i.rt

theorem EncodedFields.mrsFpsr (t : RegNum) : EncodedFields.Statement (.mrsFpsr t) := by
  unfold EncodedFields.Statement
  revert t
  decide

theorem EncodedFields.msrFpsr (t : RegNum) : EncodedFields.Statement (.msrFpsr t) := by
  unfold EncodedFields.Statement
  revert t
  decide

end Sys2Proof.Laws
end

