-- ==== Sys2Proof/Laws/Registers.lean ====
section
/-! SUPPORT. The general registers: what a read returns after a write (R36, R57). -/

namespace Sys2Proof.Machine

/-- A read depends on the register file alone. -/
theorem State.readX_congr {s u : State} (h : u.x = s.x) (r : RegNum) : u.readX r = s.readX r := by
  simp [State.readX, h]

@[simp] theorem State.readX_xzr (s : State) : s.readX 31#5 = 0 := rfl

@[simp] theorem State.writeX_xzr (s : State) (v : Word) : s.writeX 31#5 v = s := rfl

/-- A register number other than 31 names one of X0 to X30. -/
theorem RegNum.toNat_lt_of_ne {t : RegNum} (h : t ≠ 31) : t.toNat < 31 := by
  have h31 : t.toNat ≠ 31 := fun e => h (BitVec.eq_of_toNat_eq e)
  have := t.isLt
  omega

/-- What every register reads as after a write: the value at the register written, unless it is XZR, and the old value
elsewhere. -/
theorem State.readX_writeX (s : State) (t r : RegNum) (v : Word) :
    (s.writeX t v).readX r = if r = t ∧ t ≠ 31 then v else s.readX r := by
  by_cases ht : t = 31
  · rw [ht, if_neg (fun e => e.2 rfl)]; rfl
  · have hlt := RegNum.toNat_lt_of_ne ht
    by_cases hr : r = t
    · subst hr
      rw [if_pos ⟨rfl, ht⟩]
      simp [State.readX, State.writeX, hlt]
    · have hne : t.toNat ≠ r.toNat := fun e => hr (BitVec.eq_of_toNat_eq e.symm)
      simp only [State.readX, State.writeX, hlt, hr, dif_pos, State.setX_x, false_and, if_false]
      split
      · rw [Vector.getElem_set_ne _ _ hne]
      · rfl

/-- A register that is not written keeps its value. -/
theorem State.readX_writeXs_of_notMem (s : State) (ws : List (RegNum × Word)) {r : RegNum}
    (h : r ∉ ws.map Prod.fst) : (s.writeXs ws).readX r = s.readX r := by
  induction ws generalizing s with
  | nil => rfl
  | cons w rest ih =>
    simp only [List.map_cons, List.mem_cons, not_or] at h
    rw [State.writeXs, ih _ h.2, State.readX_writeX, if_neg (fun e => h.1 e.1)]

/-- The writes of a list see nothing but the register file. -/
theorem State.writeXs_x_congr (ws : List (RegNum × Word)) {s u : State} (h : u.x = s.x) :
    (u.writeXs ws).x = (s.writeXs ws).x := by
  induction ws generalizing s u with
  | nil => exact h
  | cons w rest ih =>
    refine ih ?_
    simp only [State.writeX]
    split <;> simp [h]

end Sys2Proof.Machine
end

