-- ==== Sys2Proof/Tests/Slice0.lean ====
section
/-! SUPPORT. The model's own tests, their expected results from spec/95_test_vectors.md and the worked examples of the rules, and a
witness for every statement's hypotheses. -/

namespace Sys2Proof.Machine

/-! ### Test states are built by these changes of one -/

def State.atEL (s : State) (el : EL) : State := { s with pstate := { s.pstate with el := el } }
def State.under (s : State) (p : Res0Policy) : State := { s with config := { s.config with res0Policy := p } }
def State.ending (s : State) (e : TrapEntry) : State := { s with config := { s.config with trapEntry := e } }
def State.withEL3 (s : State) (prio : Bool) : State :=
  { s with config := { s.config with haveEL3 := true, impDefEL3TrapPrioritySDD := prio } }
def State.withInputs (s : State) (f : Inputs → Inputs) : State := { s with inputs := f s.inputs }

end Sys2Proof.Machine

namespace Sys2Proof.Tests

open Sys2Proof.Machine

/-! ### A concrete machine -/

/-- A bank with a vector. -/
def bank (vector : Word) : ExcBank :=
  { elr := 0, spsr := { el := .el0, n := false, z := false, c := false, v := false }, esr := 0, syncVector := vector }

/-- The starting state of 95 section 8, FPSR 0, registers 0, RES0 bits reading 0, no program. -/
def base : State where
  config :=
    { haveAArch32FP := true, haveEL3 := false, impDefEL3TrapPrioritySDD := false, res0Policy := .razWi, trapEntry := .taken }
  x := Vector.replicate 31 0
  pc := 0x1000
  fpsr := 0
  pstate := { el := .el1, n := false, z := true, c := false, v := false }
  inputs :=
    { fpcr := { ioe := false, dze := false, ofe := false, ufe := false, ixe := false, ide := false }
      flushToZeroEnabled := false
      cpacrEL1FPEN := 0b11, cptrEL2FPEN := 0b11, cptrEL2TFP := false, cptrEL3TFP := false
      hcrEL2E2H := false, hcrEL2TGE := false, el2Enabled := false, halted := false, edscrSDD := false }
  exc := { el1 := bank 0x10200, el2 := bank 0x20400, el3 := bank 0x30400 }
  mem := []
  supplied := []
  turns := []
  draws := 0

/-- The machine with one word at the pc. -/
def prog (w : InstrWord) : State := base.loadProgram 0x1000 [w]

def nextIs (r : Result) (p : State → Bool) : Bool :=
  match r with
  | .next u => p u
  | _ => false

def faultIs (r : Result) (f : Fault) : Bool :=
  match r with
  | .fault g => g == f
  | _ => false

def refusalIs (r : Result) (f : Refusal) : Bool :=
  match r with
  | .refused g => g == f
  | _ => false

/-! ### Well-formedness (R73, R83, R85) -/

/-- A record with the listed events. -/
def evOf (l : List FPException) (sat : Bool) : EventRecord :=
  { io := l.contains .invalidOperation, dz := l.contains .divideByZero, overflow := l.contains .overflow,
    uf := l.contains .underflow, ix := l.contains .inexact, idn := l.contains .inputDenormal, sat := sat }

/-- The trap enables of the listed exceptions. -/
def enOf (l : List FPException) : FPCR :=
  { ioe := l.contains .invalidOperation, dze := l.contains .divideByZero, ofe := l.contains .overflow,
    ufe := l.contains .underflow, ixe := l.contains .inexact, ide := l.contains .inputDenormal }

/-- A supplied step that writes nothing else and goes on at 0x1004. -/
def fpStep (cls : InstrClass) (lanes : List EventRecord) : SuppliedStep :=
  { cls := cls, lanes := lanes, compare := none, xWrites := [], nextPC := 0x1004 }

/-- The flags of an AArch64 comparison. -/
def lessThan : CompareFlags := { n := true, z := false, c := false, v := false }

theorem test_wellFormed_accepts :
    (fpStep .scalarFP [evOf [.inexact] false]).wellFormed = true
      ∧ (fpStep .advSimdFP [evOf [.inexact] false, evOf [] false]).wellFormed = true
      ∧ (fpStep .advSimdInt [evOf [] true]).wellFormed = true ∧ (fpStep .other []).wellFormed = true := by decide

/-- One ill-formed step for each check: an FP exception of an integer operation and of another instruction, a saturation of a
scalar and of a vector floating-point instruction, a comparison that is no floating-point instruction, two lanes and no lane
in a scalar instruction. -/
theorem test_wellFormed_refuses :
    (fpStep .advSimdInt [evOf [.inexact] false]).wellFormed = false
      ∧ (fpStep .other [evOf [.invalidOperation] false]).wellFormed = false
      ∧ (fpStep .scalarFP [evOf [] true]).wellFormed = false
      ∧ (fpStep .advSimdFP [evOf [] false, evOf [] true]).wellFormed = false
      ∧ ({ fpStep .other [] with compare := some lessThan }).wellFormed = false
      ∧ (fpStep .scalarFP [evOf [] false, evOf [] false]).wellFormed = false
      ∧ (fpStep .scalarFP []).wellFormed = false := by decide

/-! ### Decoding (R54, R55, R57, R58; vectors E1 to E16) -/

theorem test_decode_mrs :
    decodeTableWord 32 0xD53B4420 = some (.mrsFpsr 0) ∧ decodeTableWord 32 0xD53B443E = some (.mrsFpsr 30)
      ∧ decodeTableWord 32 0xD53B443F = some (.mrsFpsr 31) ∧ decodeTableWord 32 0xD53B4425 = some (.mrsFpsr 5) := by decide

theorem test_decode_msr :
    decodeTableWord 32 0xD51B4420 = some (.msrFpsr 0) ∧ decodeTableWord 32 0xD51B4429 = some (.msrFpsr 9)
      ∧ decodeTableWord 32 0xD51B443F = some (.msrFpsr 31) := by decide

theorem test_decode_rejects :
    [0xD53B4400, 0xD51B4400, 0xD53B4440, 0xD53B4520, 0xD53B5420, 0xD53A4420, 0xD5334420, 0xD52B4420, 0xD57B4420, 0].all
      (fun w => decodeTableWord 32 w == none) = true := by decide

/-- Every one-bit change of E1 in bits 31:5 but bit 21 is no FPSR access. -/
theorem test_decode_one_bit_changes :
    ∀ n : Fin 27, n.val ≠ 16 → decodeTableWord 32 (0xD53B4420 ^^^ (1 <<< (n.val + 5))) = none := by decide

theorem test_decode_truncated : decode [0x20, 0x44, 0x3B] = .error .truncated := by decide

theorem test_encode_words :
    encodeWord (.mrsFpsr 0) = 0xD53B4420 ∧ encodeWord (.msrFpsr 9) = 0xD51B4429
      ∧ encode (.mrsFpsr 0) = [0x20, 0x44, 0x3B, 0xD5] := by decide

/-! ### The two instructions -/

/-- The worked example of R63. -/
theorem test_mrs_worked_example :
    nextIs (step (((prog 0xD53B4425).setFpsr 0x08000010).atEL .el0))
      (fun u => u.readX 5 == 0x08000010 && u.fpsr == 0x08000010 && u.pc == 0x1004) = true := by decide

/-- Vector W10: `MRS XZR, FPSR`. -/
theorem test_mrs_xzr :
    nextIs (step ((prog 0xD53B443F).setFpsr 0x1F))
      (fun u => u.x == Vector.replicate 31 0 && u.fpsr == 0x1F && u.pc == 0x1004) = true := by decide

/-- The worked example of R64. -/
theorem test_msr_worked_example :
    nextIs (step (((prog 0xD51B4422).writeX 2 0xFFFFFFFFFFFFFFFF).withInputs (fun i => { i with cpacrEL1FPEN := 0b01 })))
      (fun u => u.fpsr == 0xFFFFFFFFFFFFFFFF && u.pc == 0x1004) = true := by decide

/-- Vector W9, the first instruction of P1: `MSR FPSR, XZR`. -/
theorem test_msr_xzr :
    nextIs (step ((prog 0xD51B443F).setFpsr 0xFFFFFFFFFFFFFFFF)) (fun u => u.fpsr == 0 && u.pc == 0x1004) = true := by decide

/-- Vectors W2, W3, W7, W8: what a direct read returns of a stored value. Under ANY the draw chooses. -/
theorem test_read_under_each_policy :
    readFpsrWith base.config 0 0xFFFFFFFFFFFFFFFF = 0xF800009F
      ∧ readFpsrWith (base.under .stored).config 0 0xFFFFFFFFFFFFFFFF = 0xFFFFFFFFFFFFFFFF
      ∧ readFpsrWith { base.config with haveAArch32FP := false } 0 0xFFFFFFFFFFFFFFFF = 0x0800009F
      ∧ [0, 0x20, 0x40, 0xFFFFFFFFFFFFFFFF].map (fun d => readFpsrWith (base.under .any).config d 0x60)
          = [0, 0x20, 0x40, 0x60]
      ∧ [0, 0xFFFFFFFFFFFFFFFF].map (fun d => readFpsrWith (base.under .any).config d 0x100000001)
          = [1, 0x100000001] := by decide

/-- Rows F1 to F12 of 95 section 3: which field each single bit is. -/
theorem test_fields :
    [(FpsrField.ioc, 1), (.dzc, 2), (.ofc, 4), (.ufc, 8), (.ixc, 0x10), (.idc, 0x80), (.qc, 0x08000000),
      (.v, 0x10000000), (.c, 0x20000000), (.z, 0x40000000), (.n, 0x80000000)].all
        (fun p => FpsrField.of p.2 p.1 && (fieldMask base.config &&& p.2 == p.2)) = true := by decide

/-! ### The access check (95 section 5) -/

/-- One row: the level; Halted, HaveEL3, SDD, ImpDef, CPTR_EL3.TFP, EL2Enabled, E2H, TGE as eight bits; CPACR_EL1.FPEN;
CPTR_EL2.FPEN; CPTR_EL2.TFP; the outcome. -/
def row (el : EL) (b : BitVec 8) (cpacr cptr : BitVec 2) (tfp : Bool) (o : AccessOutcome) : Bool :=
  checkFpsrAccess { base.config with haveEL3 := b.getLsbD 6, impDefEL3TrapPrioritySDD := b.getLsbD 4 } el
    { base.inputs with
      halted := b.getLsbD 7, edscrSDD := b.getLsbD 5, cptrEL3TFP := b.getLsbD 3, el2Enabled := b.getLsbD 2,
      hcrEL2E2H := b.getLsbD 1, hcrEL2TGE := b.getLsbD 0, cpacrEL1FPEN := cpacr, cptrEL2FPEN := cptr,
      cptrEL2TFP := tfp } == o

/-- Rows A1 to A14. -/
theorem test_access_vectors_A1_to_A14 : [
  row .el0 0b00000000 0b11 0b11 false (.allow),
  row .el0 0b00000000 0b00 0b11 false (.trap .el1 0x07),
  row .el0 0b00000000 0b01 0b11 false (.trap .el1 0x07),
  row .el0 0b00000000 0b10 0b11 false (.trap .el1 0x07),
  row .el1 0b00000000 0b00 0b11 false (.trap .el1 0x07),
  row .el1 0b00000000 0b01 0b11 false (.allow),
  row .el1 0b00000000 0b10 0b11 false (.trap .el1 0x07),
  row .el1 0b00000000 0b11 0b11 false (.allow),
  row .el0 0b00000101 0b01 0b11 false (.trap .el2 0x00),
  row .el0 0b00000101 0b11 0b11 true (.trap .el2 0x07),
  row .el0 0b00000101 0b11 0b11 false (.allow),
  row .el0 0b00000111 0b00 0b11 false (.allow),
  row .el0 0b00000111 0b11 0b01 false (.trap .el2 0x07),
  row .el0 0b00000110 0b11 0b01 false (.allow)].all id = true := by decide

/-- Rows A15 to A27. -/
theorem test_access_vectors_A15_to_A27 : [
  row .el0 0b00000110 0b11 0b10 false (.trap .el2 0x07),
  row .el0 0b00000110 0b11 0b00 false (.trap .el2 0x07),
  row .el0 0b00000110 0b11 0b11 true (.allow),
  row .el0 0b00000100 0b11 0b00 false (.allow),
  row .el0 0b00000100 0b11 0b11 true (.trap .el2 0x07),
  row .el0 0b00000100 0b10 0b11 true (.trap .el1 0x07),
  row .el0 0b00000011 0b11 0b00 true (.allow),
  row .el0 0b00000011 0b01 0b11 false (.trap .el1 0x07),
  row .el1 0b00000100 0b01 0b11 true (.trap .el2 0x07),
  row .el1 0b00000100 0b10 0b11 true (.trap .el1 0x07),
  row .el1 0b00000110 0b11 0b10 false (.trap .el2 0x07),
  row .el1 0b00000110 0b11 0b01 true (.allow),
  row .el1 0b00000000 0b11 0b11 true (.allow)].all id = true := by decide

/-- Rows A28 to A41. -/
theorem test_access_vectors_A28_to_A41 : [
  row .el2 0b00000100 0b00 0b11 true (.trap .el2 0x07),
  row .el2 0b00000100 0b00 0b00 false (.allow),
  row .el2 0b00000110 0b11 0b00 false (.trap .el2 0x07),
  row .el2 0b00000110 0b11 0b01 true (.allow),
  row .el2 0b00000110 0b11 0b10 false (.trap .el2 0x07),
  row .el2 0b00000110 0b11 0b11 false (.allow),
  row .el0 0b01001000 0b11 0b11 false (.trap .el3 0x07),
  row .el0 0b01001000 0b00 0b11 false (.trap .el1 0x07),
  row .el0 0b00001000 0b11 0b11 false (.allow),
  row .el1 0b01001000 0b11 0b11 false (.trap .el3 0x07),
  row .el2 0b01001100 0b11 0b11 false (.trap .el3 0x07),
  row .el2 0b01001100 0b11 0b11 true (.trap .el2 0x07),
  row .el3 0b01001000 0b11 0b11 false (.trap .el3 0x07),
  row .el3 0b01000100 0b00 0b11 true (.allow)].all id = true := by decide

/-- Rows A42 to A53. -/
theorem test_access_vectors_A42_to_A53 : [
  row .el0 0b11111000 0b00 0b11 false (.undef),
  row .el0 0b11101000 0b00 0b11 false (.trap .el1 0x07),
  row .el0 0b11101000 0b11 0b11 false (.undef),
  row .el0 0b11011000 0b11 0b11 false (.trap .el3 0x07),
  row .el0 0b01111000 0b11 0b11 false (.trap .el3 0x07),
  row .el0 0b11110000 0b11 0b11 false (.allow),
  row .el1 0b11111000 0b00 0b11 false (.undef),
  row .el1 0b11101000 0b00 0b11 false (.trap .el1 0x07),
  row .el2 0b11111100 0b11 0b11 true (.undef),
  row .el2 0b11101100 0b11 0b11 true (.trap .el2 0x07),
  row .el2 0b11101100 0b11 0b11 false (.undef),
  row .el3 0b11111000 0b11 0b11 false (.trap .el3 0x07)].all id = true := by decide

/-! ### Traps (R89, R103) -/

/-- P3: EL0, `CPACR_EL1.FPEN` = '01'. -/
def p3 : State :=
  ((((prog 0xD53B4422).setFpsr 1).writeX 2 0xAAAAAAAAAAAAAAAA).atEL .el0).withInputs (fun i => { i with cpacrEL1FPEN := 0b01 })

/-- P3's variant: EL2 enabled with `HCR_EL2.TGE` = 1. -/
def p3TGE : State := p3.withInputs (fun i => { i with el2Enabled := true, hcrEL2TGE := true })

/-- P3 under R95: the trap ends the run and reports its three components. -/
theorem test_p3_terminal :
    faultIs (step (p3.ending .terminal)) (.systemAccessTrap .el1 0x07 0x1000) = true
      ∧ faultIs (step (p3TGE.ending .terminal)) (.systemAccessTrap .el2 0x00 0x1000) = true := by decide

/-- P3 under R103: ESR_EL1 = 0x1FE00000, and ESR_EL2 = 0x02000000 in the variant. -/
theorem test_p3_taken :
    nextIs (step p3) (fun u => u.exc.el1.esr == 0x1FE00000 && u.exc.el1.elr == 0x1000 && u.exc.el1.spsr == p3.pstate
        && u.pstate.el == .el1 && u.pc == 0x10200 && u.fpsr == 1 && u.readX 2 == 0xAAAAAAAAAAAAAAAA) = true
      ∧ nextIs (step p3TGE) (fun u => u.exc.el2.esr == 0x02000000 && u.pstate.el == .el2 && u.pc == 0x20400
          && u.exc.el1 == bank 0x10200) = true := by decide

/-- Vector A42: UNDEFINED in Debug state (R90). -/
def debugState : State :=
  ((p3.withEL3 true).withInputs (fun i => { i with halted := true, edscrSDD := true, cptrEL3TFP := true }))

theorem test_undefined : faultIs (step debugState) (.undefined 0x1000) = true := by decide

/-! ### Implicit updates (95 section 6) -/

theorem test_implicit_updates_U1_to_U14 :
    updateFpsr (evOf [.invalidOperation] false) (enOf []) false 0 = 0x1
      ∧ updateFpsr (evOf [.divideByZero] false) (enOf []) false 1 = 0x3
      ∧ updateFpsr (evOf [.overflow, .inexact] false) (enOf []) false 0 = 0x14
      ∧ updateFpsr (evOf [.underflow] false) (enOf [.underflow]) true 0 = 0x8
      ∧ updateFpsr (evOf [.underflow, .inexact] false) (enOf []) false 0 = 0x18
      ∧ updateFpsr (evOf [.inputDenormal] false) (enOf []) false 0 = 0x80
      ∧ updateFpsr (evOf [] true) (enOf []) false 0x10 = 0x08000010
      ∧ updateFpsr (evOf [.invalidOperation, .divideByZero, .overflow, .underflow, .inexact, .inputDenormal] true) (enOf [])
          false 0x0800009F = 0x0800009F
      ∧ updateFpsr (evOf [.inexact] false) (enOf []) false 0xF0000000 = 0xF0000010
      ∧ updateFpsr (evOf [] false) (enOf []) false 0x1F = 0x1F
      ∧ updateFpsr (evOf [.invalidOperation, .divideByZero, .overflow, .underflow, .inexact, .inputDenormal] true) (enOf [])
          false 0 = 0x0800009F := by decide

theorem test_implicit_updates_U17_U18 :
    updateFpsr (evOf [] true) (enOf [.invalidOperation, .divideByZero, .overflow, .underflow, .inexact, .inputDenormal])
        false 0 = 0x08000000
      ∧ updateFpsr (evOf [.inexact] false) (enOf []) false 0xFFFFFFFF07FFFF60 = 0xFFFFFFFF07FFFF70 := by decide

/-- Vectors U2, U6, U9, U15, U16, U19: the trapped kinds, and FPSR under the two extreme draws. -/
theorem test_trapped_updates :
    trappedKinds (evOf [.invalidOperation] false) (enOf [.invalidOperation]) false = [.invalidOperation]
      ∧ trappedKinds (evOf [.underflow] false) (enOf [.underflow]) false = [.underflow]
      ∧ trappedKinds (evOf [.underflow] false) (enOf [.underflow]) true = []
      ∧ trappedKinds (evOf [.inputDenormal] false) (enOf [.inputDenormal]) false = [.inputDenormal]
      ∧ trappedKinds (evOf [.inexact, .overflow] false) (enOf [.inexact]) false = [.inexact]
      ∧ trappedKinds (evOf [.inexact] false) (enOf [.inexact]) true = [.inexact]
      ∧ [0, 0xFFFFFFFFFFFFFFFF].map (fun d => updateFpsrTrapped (evOf [.inexact, .overflow] false) (enOf [.inexact]) false d 0)
          = [0, 4]
      ∧ [0, 0xFFFFFFFFFFFFFFFF].map (fun d => updateFpsrTrapped (evOf [.underflow] false) (enOf [.underflow]) false d 8)
          = [8, 8] := by decide

/-- One instruction of the surrounding model at 0x1000. -/
def surrounding (w : Word) (st : SuppliedStep) : State := ((prog 0).setFpsr w).setSupplied [st]

/-- U7 as a step: an Advanced SIMD floating-point instruction, Underflow in one lane and Inexact in the other. -/
theorem test_step_two_lanes :
    nextIs (step (surrounding 0 (fpStep .advSimdFP [evOf [.underflow] false, evOf [.inexact] false])))
      (fun u => u.fpsr == 0x18 && u.pc == 0x1004 && u.supplied == []) = true := by decide

/-- R85: a comparison sets PSTATE's flags and leaves FPSR's. -/
theorem test_step_compare :
    nextIs (step (surrounding 0xF0000000 { fpStep .scalarFP [evOf [.invalidOperation] false] with compare := some lessThan }))
      (fun u => u.fpsr == 0xF0000001 && u.pstate.n && !u.pstate.z && u.pstate.el == .el1) = true := by decide

/-- P7's second instruction with `FPCR.DZE` = 1. -/
def p7 : State :=
  (surrounding 0 (fpStep .scalarFP [evOf [.divideByZero] false])).withInputs (fun i => { i with fpcr := enOf [.divideByZero] })

theorem test_p7_trapped :
    (match step p7 with
      | .fault (.trappedFPException kinds _ pc) => kinds == [.divideByZero] && pc == 0x1000
      | _ => false) = true := by decide

/-! ### The first instruction after reset -/

theorem test_first_instruction_after_reset :
    nextIs (step (State.reset.withFetchWord 32 0xD53B4420)) (fun u => u.pc == 4) = true
      ∧ nextIs (step (State.reset.withFetchWord 32 0xD51B443F)) (fun u => u.pc == 4 && u.fpsr == 0) = true := by decide

/-- Reset memory lists nothing, so the machine has no word to fetch until a program is loaded (log 24). -/
theorem test_reset_alone : refusalIs (step State.reset) .noWordAtPC = true := by decide

/-! ### Witnesses: every statement's hypotheses are met by a concrete state -/

/-- The PE runs `i` and nothing else from `s`. -/
theorem not_runs {s p : State} {bytes : List Byte} {r : Except DecodeReject (Instr × List Byte)} (hp : s.peTurn = some p)
    (hf : p.fetch = .ok bytes) (hd : decode bytes = r) {i : Instr} (hr : ∀ rest, r ≠ .ok (i, rest)) (q : State) :
    ¬ s.Runs q i := by
  rintro ⟨hq, b, rest, hb, hi⟩
  cases hp.symm.trans hq
  cases hf.symm.trans hb
  exact hr rest (hd.symm.trans hi)

/-- An `MRS X5, FPSR` at 0x1000. -/
def mrs5 : State := prog 0xD53B4425

/-- An `MSR FPSR, X5` at 0x1000. -/
def msr5 : State := prog 0xD51B4425

/-- An IX event in a scalar instruction at 0x1000. -/
def fpIX : State := surrounding 0x08000001 (fpStep .scalarFP [evOf [.inexact] false])

theorem mrs5_word : decode [0x25, 0x44, 0x3B, 0xD5] = .ok (.mrsFpsr 5, []) := rfl
theorem msr5_word : decode [0x25, 0x44, 0x1B, 0xD5] = .ok (.msrFpsr 5, []) := rfl
theorem fpIX_word : decode [0, 0, 0, 0] = .error .notSystemRegisterMove := rfl
theorem mrs5_runs : mrs5.Runs mrs5 (.mrsFpsr 5) := ⟨rfl, [0x25, 0x44, 0x3B, 0xD5], [], rfl, rfl⟩
theorem msr5_runs : msr5.Runs msr5 (.msrFpsr 5) := ⟨rfl, [0x25, 0x44, 0x1B, 0xD5], [], rfl, rfl⟩
theorem fpIX_runsOther : fpIX.RunsOther fpIX := ⟨rfl, [0, 0, 0, 0], _, rfl, rfl⟩

theorem witness_EncodeOfDecode : decodeWord 0xD51B443F = .ok (.msrFpsr 31) := by decide

/-- No turn scheduled, and the PE's turn scheduled. -/
theorem witness_StepRunsDecodedInstruction :
    ∀ s ∈ [mrs5, mrs5.setTurns [.pe]], Aligned s.pc ∧ Memory.acrossTop s.mem = false
      ∧ Memory.read s.pc.toNat s.mem = some 0x25 ∧ Memory.read (s.pc.toNat + 1) s.mem = some 0x44
      ∧ Memory.read (s.pc.toNat + 2) s.mem = some 0x3B ∧ Memory.read (s.pc.toNat + 3) s.mem = some 0xD5
      ∧ decode [0x25, 0x44, 0x3B, 0xD5] = .ok (.mrsFpsr 5, []) ∧ (s.turns = [] ∨ s.turns = [.pe]) := by decide

/-- Clause 1 at the first misaligned address, clause 2 with a text of two bytes, the last and the first of the address space. -/
theorem witness_StepStopsByName_fetch :
    ((mrs5.setPc 0x1001).peTurn = some (mrs5.setPc 0x1001) ∧ ¬ Aligned (mrs5.setPc 0x1001).pc)
      ∧ (Aligned (mrs5.setMem [(0, 0), (2 ^ 64 - 1, 0)]).pc
          ∧ Memory.acrossTop (mrs5.setMem [(0, 0), (2 ^ 64 - 1, 0)]).mem = true) := by decide

/-- Clause 3 at the address just past the last word, and one word further. -/
theorem witness_StepStopsByName_noWord :
    ∀ s ∈ [mrs5.setPc 0x1004, mrs5.setPc 0x1008], Aligned s.pc ∧ Memory.acrossTop s.mem = false
      ∧ Memory.readWordBytes s.pc.toNat s.mem = none ∧ s.peTurn = some s := by decide

theorem witness_StepStopsByName_noWord_ends :
    (mrs5.setPc 0x1004).atEnd = true ∧ (mrs5.setPc 0x1008).atEnd = false := by decide

/-- Clauses 4 and 5. -/
theorem witness_StepStopsByName_noRule :
    (prog 0xD53B4400).peTurn = some (prog 0xD53B4400) ∧ (prog 0xD53B4400).fetch = .ok [0x00, 0x44, 0x3B, 0xD5]
      ∧ decode [0x00, 0x44, 0x3B, 0xD5] = .error (.otherSystemRegister 1 3 4 4 0) ∧ (prog 0xD53B4400).supplied = []
      ∧ refusalIs (step (prog 0xD53B4400)) (.notFPSRAccess 0xD53B4400) = true :=
  ⟨rfl, rfl, rfl, rfl, by decide⟩

theorem witness_StepStopsByName_illFormed :
    (surrounding 0 (fpStep .scalarFP [])).RunsOther (surrounding 0 (fpStep .scalarFP []))
      ∧ (fpStep .scalarFP []).wellFormed = false :=
  ⟨⟨rfl, [0, 0, 0, 0], _, rfl, rfl⟩, rfl⟩

/-- The final end after the last word, also where that word is the last of the address space and the pc is 0. -/
theorem witness_FinalExactlyPastLastWord :
    endOf (step (mrs5.setPc 0x1004)) = some .final ∧ endOf (step (mrs5.setPc 0x1008)) = some .refusal
      ∧ endOf (step ((base.loadProgram 0xFFFFFFFFFFFFFFFC [0xD53B4425]).setPc 0)) = some .final
      ∧ endOf (step (p3.ending .terminal)) = some .fault := by decide

/-- A program that ends exactly at the top runs; one word more stands across it and is refused at its first word (R37). -/
theorem test_program_across_top :
    nextIs (step (base.loadProgram 0xFFFFFFFFFFFFFFFC [0xD51B443F])) (fun u => u.pc == 0) = true
      ∧ refusalIs (step (base.loadProgram 0xFFFFFFFFFFFFFFFC [0xD51B443F, 0xD53B4420])) .programAcrossTop = true := by decide

/-- Both clauses, at the boundary. -/
theorem witness_LoadedProgramStandsOrIsRefused :
    Aligned 0xFFFFFFFFFFFFFFFC
      ∧ (4 * [0xD51B443F, (0xD53B4420 : InstrWord)].length < 2 ^ 64
          ∧ 2 ^ 64 < (0xFFFFFFFFFFFFFFFC : Word).toNat + 4 * [0xD51B443F, (0xD53B4420 : InstrWord)].length)
      ∧ (4 * [(0xD51B443F : InstrWord)].length < 2 ^ 64
          ∧ (0xFFFFFFFFFFFFFFFC : Word).toNat + 4 * [(0xD51B443F : InstrWord)].length ≤ 2 ^ 64) := by decide

/-- An enabled access at each level, under each policy; a trap; UNDEFINED. -/
theorem witness_MrsReadsFpsr :
    (∀ p : Res0Policy, p = .razWi ∨ p = .stored ∨ p = .any → (mrs5.under p).accessEnabled ∧ (mrs5.under p).config.res0Policy = p)
      ∧ p3.checkAccess = .trap .el1 0x07 ∧ debugState.checkAccess = .undef := by
  refine ⟨?_, by decide, by decide⟩
  rintro p (rfl | rfl | rfl) <;> decide

theorem witness_MsrWritesFpsr :
    (∀ el ∈ [EL.el0, .el1, .el2, .el3], ((msr5.withEL3 true).atEL el).accessEnabled)
      ∧ p3TGE.checkAccess = .trap .el2 0x00 ∧ debugState.checkAccess = .undef := by decide

/-- A next state of MRS, of MSR, and of a trap taken. -/
theorem witness_FrameOfFpsrAccesses :
    (∃ u, exec (.mrsFpsr 5) mrs5 = .next u) ∧ (∃ u, exec (.msrFpsr 5) msr5 = .next u) ∧ mrs5.accessEnabled
      ∧ (∃ u, exec (.mrsFpsr 2) p3 = .next u ∧ u.pstate.el ≠ TrapTarget.el2.toEL) ∧ ¬ p3.accessEnabled :=
  ⟨⟨_, rfl⟩, ⟨_, rfl⟩, by decide, ⟨_, rfl, by decide⟩, by decide⟩

theorem witness_XzrDiscardsAndClears : mrs5.accessEnabled ∧ ¬ p3.accessEnabled := ⟨by decide, by decide⟩

theorem witness_ReadAfterWrite : msr5.accessEnabled ∧ (5 : RegNum) ≠ 31 := by decide

theorem witness_ReadsInARowAgree :
    mrs5.accessEnabled ∧ (5 : RegNum) ≠ 31 ∧ mrs5.config.res0Policy ≠ .any
      ∧ FpsrField.qc.present mrs5.config = true ∧ FpsrField.n.present mrs5.config = true := by decide

/-- P6: X0 holds what was read, and IOC was recorded in between. -/
theorem witness_WriteBackRestoresAndLoses :
    (prog 0xD53B4420).accessEnabled ∧ ((prog 0xD51B4420).setFpsr 1).accessEnabled ∧ (0 : RegNum) ≠ 31
      ∧ ((prog 0xD51B4420).setFpsr 1).config = (prog 0xD53B4420).config
      ∧ (∃ u, exec (.mrsFpsr 0) (prog 0xD53B4420) = .next u ∧ ((prog 0xD51B4420).setFpsr 1).readX 0 = u.readX 0) :=
  ⟨by decide, by decide, by decide, rfl, _, rfl, by decide⟩

theorem witness_MsrCompletesForEveryValue : msr5.accessEnabled ∧ (5 : RegNum) ≠ 31 := by decide

/-- R66's arms (1), (2) both ways, (3) or (4) or (5), (6) both ways, (7): vectors A42, A9, A2, A13, A16, A19, A44, A34, A12. -/
theorem witness_OutcomeAtEL0 :
    debugState.debugArm
      ∧ (¬ p3TGE.debugArm ∧ p3TGE.inputs.el1TrapsEL0 ∧ p3TGE.inputs.tgeRoutes)
      ∧ (¬ p3.debugArm ∧ p3.inputs.el1TrapsEL0 ∧ ¬ p3.inputs.tgeRoutes) := by decide

/-- An enabled state at EL0. -/
def el0 : State := mrs5.atEL .el0

theorem witness_OutcomeAtEL0_el2 :
    ∀ s ∈ [el0.withInputs (fun i => { i with el2Enabled := true, hcrEL2E2H := true, hcrEL2TGE := true, cptrEL2FPEN := 0b01 }),
        el0.withInputs (fun i => { i with el2Enabled := true, hcrEL2E2H := true, cptrEL2FPEN := 0b00 }),
        el0.withInputs (fun i => { i with el2Enabled := true, cptrEL2TFP := true })],
      s.pstate.el = .el0 ∧ ¬ s.debugArm ∧ ¬ s.inputs.el1TrapsEL0 ∧ s.inputs.el2TrapsEL0 := by decide

/-- Arm (6) halted with SDD = 1 and not so, at every level of R66 to R68, with EL2 not enabled. -/
theorem witness_Outcome_el3 :
    ∀ el ∈ [EL.el0, .el1, .el2], ∀ h ∈ [true, false],
      let s := (((mrs5.withEL3 false).atEL el).withInputs (fun i => { i with halted := h, edscrSDD := true, cptrEL3TFP := true }))
      s.pstate.el = el ∧ ¬ s.debugArm ∧ ¬ s.inputs.el1TrapsEL0 ∧ ¬ s.inputs.el2TrapsEL0 ∧ ¬ s.inputs.el1TrapsEL1
        ∧ ¬ s.inputs.el2TrapsEL1 ∧ ¬ s.inputs.el2TrapsEL2 ∧ s.el3Traps ∧ (s.inputs.haltedSDD ↔ h = true) := by decide

/-- The last arm, at every level. -/
theorem witness_Outcome_allow :
    ∀ el ∈ [EL.el0, .el1, .el2],
      let s := mrs5.atEL el
      ¬ s.debugArm ∧ ¬ s.inputs.el1TrapsEL0 ∧ ¬ s.inputs.el2TrapsEL0 ∧ ¬ s.inputs.el1TrapsEL1 ∧ ¬ s.inputs.el2TrapsEL1
        ∧ ¬ s.inputs.el2TrapsEL2 ∧ ¬ s.el3Traps := by decide

/-- R67's arms (1) to (4): vectors A48, A5, A23, A25. -/
theorem witness_OutcomeAtEL1 :
    (debugState.atEL .el1).debugArm
      ∧ (let s := mrs5.withInputs (fun i => { i with cpacrEL1FPEN := 0b10 }); ¬ s.debugArm ∧ s.inputs.el1TrapsEL1)
      ∧ (let s := mrs5.withInputs (fun i => { i with cpacrEL1FPEN := 0b01, el2Enabled := true, cptrEL2TFP := true });
          s.pstate.el = .el1 ∧ ¬ s.debugArm ∧ ¬ s.inputs.el1TrapsEL1 ∧ s.inputs.el2TrapsEL1)
      ∧ (let s := mrs5.withInputs (fun i => { i with el2Enabled := true, hcrEL2E2H := true, cptrEL2FPEN := 0b10 });
          s.pstate.el = .el1 ∧ ¬ s.debugArm ∧ ¬ s.inputs.el1TrapsEL1 ∧ s.inputs.el2TrapsEL1) := by decide

/-- R68's arms (1) to (3): vectors A50, A28, A30. -/
theorem witness_OutcomeAtEL2 :
    (debugState.atEL .el2).debugArm
      ∧ (let s := (mrs5.atEL .el2).withInputs (fun i => { i with cptrEL2TFP := true }); ¬ s.debugArm ∧ s.inputs.el2TrapsEL2)
      ∧ (let s := (mrs5.atEL .el2).withInputs (fun i => { i with hcrEL2E2H := true, cptrEL2FPEN := 0b00 });
          ¬ s.debugArm ∧ s.inputs.el2TrapsEL2) := by decide

/-- R69: vectors A53 and A41. -/
theorem witness_OutcomeAtEL3 :
    ((debugState.atEL .el3).pstate.el = .el3 ∧ (debugState.atEL .el3).inputs.cptrEL3TFP = true)
      ∧ ((mrs5.atEL .el3).pstate.el = .el3 ∧ (mrs5.atEL .el3).inputs.cptrEL3TFP = false) := by decide

/-- A trap with code 0x00 and one to EL3; UNDEFINED; vectors A42 and A43, where the parameter decides. -/
theorem witness_CheckConsequences :
    checkFpsrAccess p3TGE.config .el0 p3TGE.inputs = .trap .el2 0x00
      ∧ checkFpsrAccess debugState.config .el3 debugState.inputs = .trap .el3 0x07
      ∧ checkFpsrAccess debugState.config .el1 debugState.inputs = .undef
      ∧ checkFpsrAccess { debugState.config with impDefEL3TrapPrioritySDD := true } .el0 debugState.inputs = .undef
      ∧ checkFpsrAccess { debugState.config with impDefEL3TrapPrioritySDD := false } .el0 debugState.inputs
          = .trap .el1 0x07 := by decide

/-- A refused access that answers a next state (the trap taken), and one that faults. -/
theorem witness_RefusedAccessIsBlind :
    ¬ p3.accessEnabled ∧ (∃ u, exec (.msrFpsr 2) p3 = .next u)
      ∧ ¬ debugState.accessEnabled ∧ exec (.msrFpsr 2) debugState = .fault (.undefined 0x1000) :=
  ⟨by decide, ⟨_, rfl⟩, by decide, rfl⟩

theorem witness_TerminalTrapReports :
    (p3.ending .terminal).config.trapEntry = .terminal ∧ (p3.ending .terminal).checkAccess = .trap .el1 0x07
      ∧ exec (.msrFpsr 2) (p3.ending .terminal) = .fault (.systemAccessTrap .el1 0x07 0x1000) :=
  ⟨rfl, by decide, rfl⟩

/-- Both codes, and the reroute of R103 from EL1 to EL2 (an access from EL1 with TGE = 1). -/
theorem witness_TakenTrapSavesAndEnters :
    (p3.config.trapEntry = .taken ∧ p3.checkAccess = .trap .el1 0x07)
      ∧ (p3TGE.config.trapEntry = .taken ∧ p3TGE.checkAccess = .trap .el2 0x00)
      ∧ (let s := mrs5.withInputs (fun i => { i with cpacrEL1FPEN := 0b00, el2Enabled := true, hcrEL2TGE := true });
          s.config.trapEntry = .taken ∧ s.checkAccess = .trap .el1 0x07 ∧ s.inputs.routeTrap .el1 = .el2) := by decide

theorem witness_EachEventSetsItsOwnBit :
    fpIX.RunsOther fpIX ∧ fpIX.supplied = [fpStep .scalarFP [evOf [.inexact] false]]
      ∧ (fpStep .scalarFP [evOf [.inexact] false]).wellFormed = true
      ∧ ∀ x, ¬ fpIX.Traps (fpStep .scalarFP [evOf [.inexact] false]) x :=
  ⟨fpIX_runsOther, rfl, rfl, by rintro (_ | _ | _ | _ | _ | _) <;> decide⟩

/-- An Advanced SIMD integer operation that saturates, all six trap enables 1 (vector U17). -/
def satStep : State :=
  (surrounding 0 (fpStep .advSimdInt [evOf [] true])).withInputs (fun i =>
    { i with fpcr := enOf [.invalidOperation, .divideByZero, .overflow, .underflow, .inexact, .inputDenormal] })

theorem witness_SaturationSetsQC :
    satStep.RunsOther satStep ∧ satStep.supplied = [fpStep .advSimdInt [evOf [] true]]
      ∧ (fpStep .advSimdInt [evOf [] true]).wellFormed = true ∧ (evOf [] true).sat = true
      ∧ nextIs (step satStep) (fun u => u.fpsr == 0x08000000) = true :=
  ⟨⟨rfl, [0, 0, 0, 0], _, rfl, rfl⟩, rfl, rfl, rfl, by decide⟩

/-- A second lane with the same event, and one without any. -/
theorem witness_LanesCountTogether :
    fpIX.RunsOther fpIX
      ∧ ∀ st ∈ fpIX.supplied, ∀ st' ∈ [fpStep .advSimdFP [evOf [.inexact] false, evOf [] false, evOf [.inexact] false]],
        st.wellFormed = true ∧ st'.wellFormed = true ∧ st'.compare = st.compare ∧ st'.xWrites = st.xWrites
          ∧ st'.nextPC = st.nextPC ∧ st'.lanes.any (·.sat) = st.lanes.any (·.sat)
          ∧ ∀ x ∈ [FPException.invalidOperation, .divideByZero, .overflow, .underflow, .inexact, .inputDenormal],
              (∃ e ∈ st'.lanes, e.occurred x = true) ↔ ∃ e ∈ st.lanes, e.occurred x = true :=
  ⟨fpIX_runsOther, by decide⟩

theorem witness_TrappedExceptionEndsTheStep :
    p7.RunsOther p7 ∧ p7.supplied = [fpStep .scalarFP [evOf [.divideByZero] false]]
      ∧ (fpStep .scalarFP [evOf [.divideByZero] false]).wellFormed = true
      ∧ p7.Traps (fpStep .scalarFP [evOf [.divideByZero] false]) .divideByZero :=
  ⟨⟨rfl, [0, 0, 0, 0], _, rfl, rfl⟩, rfl, rfl, by decide⟩

/-- A comparison that also writes X3, and a step that compares nothing. -/
def compareStep : SuppliedStep :=
  { fpStep .scalarFP [evOf [] false] with compare := some lessThan, xWrites := [(3, 7)] }

theorem witness_SurroundingStepFrame :
    (fpIX.RunsOther fpIX ∧ (∃ u, step fpIX = .next u) ∧ (fpStep .scalarFP [evOf [.inexact] false]).compare = none)
      ∧ ((surrounding 0 compareStep).RunsOther (surrounding 0 compareStep) ∧ (∃ u, step (surrounding 0 compareStep) = .next u)
          ∧ compareStep.compare = some lessThan ∧ (4 : RegNum) ∉ compareStep.xWrites.map Prod.fst) :=
  ⟨⟨fpIX_runsOther, ⟨_, rfl⟩, rfl⟩, ⟨rfl, [0, 0, 0, 0], _, rfl, rfl⟩, ⟨_, rfl⟩, rfl, by decide⟩

theorem witness_not_resets : ¬ fpIX.Resets ∧ ¬ mrs5.Resets ∧ ¬ msr5.Resets := by
  refine ⟨?_, ?_, ?_⟩ <;> rintro ⟨_, _, _, h⟩ <;> cases h

/-- QC is 1 and an instruction of the surrounding model runs; also the premises of ConditionFlagsOnlyByMsr. -/
theorem witness_CumulativeBitsAreSticky :
    FpsrField.qc.cumulative = true ∧ (∀ p t, ¬ fpIX.Runs p (.msrFpsr t)) ∧ (∃ u, step fpIX = .next u)
      ∧ FpsrField.of fpIX.fpsr .qc = true :=
  ⟨rfl, fun p _ => not_runs rfl rfl fpIX_word (by simp) p, ⟨_, rfl⟩, by decide⟩

/-- The second clause: a step with no event. -/
theorem witness_CumulativeBitsAreSticky_noEvent :
    (surrounding 0x9F compareStep).RunsOther (surrounding 0x9F compareStep)
      ∧ (∀ e ∈ compareStep.lanes, e.anyException = false ∧ e.sat = false)
      ∧ nextIs (step (surrounding 0x9F compareStep)) (fun u => u.fpsr == 0x9F) = true :=
  ⟨⟨rfl, [0, 0, 0, 0], _, rfl, rfl⟩, by decide, by decide⟩

theorem witness_ConditionFlagsOnlyByMsr :
    (surrounding 0 compareStep).RunsOther (surrounding 0 compareStep) ∧ ¬ (surrounding 0 compareStep).Resets
      ∧ (surrounding 0 compareStep).supplied = [compareStep] ∧ compareStep.compare = some lessThan
      ∧ (∃ u, step (surrounding 0 compareStep) = .next u) :=
  ⟨⟨rfl, [0, 0, 0, 0], _, rfl, rfl⟩, (by rintro ⟨_, _, _, h⟩; cases h), rfl, rfl, ⟨_, rfl⟩⟩

/-- An `MRS` is no reset, no `MSR` and no instruction of the surrounding model. -/
theorem witness_FpsrStableUntilWritten :
    (∀ p t, ¬ mrs5.Runs p (.msrFpsr t)) ∧ (∀ p, ¬ mrs5.RunsOther p) ∧ (∃ u, step mrs5 = .next u) := by
  refine ⟨fun p _ => not_runs rfl rfl mrs5_word (by simp) p, ?_, ⟨_, rfl⟩⟩
  rintro p ⟨hp, b, e, hb, hd⟩
  obtain ⟨hq, b', r', hb', hd'⟩ := mrs5_runs
  cases hq.symm.trans hp
  cases hb'.symm.trans hb
  cases hd'.symm.trans hd

theorem witness_OnlyMrsReadsFpsr :
    (∀ p t, ¬ msr5.Runs p (.mrsFpsr t)) ∧ (∃ u, step msr5 = .next u)
      ∧ (∀ p t, ¬ fpIX.Runs p (.mrsFpsr t)) ∧ (∃ u, step fpIX = .next u) :=
  ⟨fun p _ => not_runs rfl rfl msr5_word (by simp) p, ⟨_, rfl⟩, fun p _ => not_runs rfl rfl fpIX_word (by simp) p, ⟨_, rfl⟩⟩

theorem witness_ParametersAndTextNeverChange : ∃ u, step mrs5 = .next u := ⟨_, rfl⟩

/-- What a reset draws. -/
def draw : ResetDraw :=
  { fpsr := 0x9F, x := Vector.replicate 31 1, pc := 0x2000, pstate := { base.pstate with el := .el0 }, inputs := base.inputs,
    exc := base.exc }

/-- The invariant holds of a machine with a program, a supplied step and scheduled turns, and it steps. -/
theorem witness_StepKeepsInv :
    ((fpIX.setTurns [.pe, .environment (.reset .cold draw), .environment (.changeInputs base.inputs base.pstate)]).Inv)
      ∧ ∃ u, step (fpIX.setTurns [.pe]) = .next u :=
  ⟨⟨by decide, by decide, by decide, by decide, by decide, by
      intro t ht
      simp only [State.setTurns, List.mem_cons, List.not_mem_nil, or_false] at ht
      rcases ht with rfl | rfl | rfl
      · trivial
      · exact (by decide : draw.pstate.legal fpIX.config ∧ Aligned draw.pc ∧ draw.exc.legal fpIX.config)
      · exact (by decide : base.pstate.legal fpIX.config)⟩, _, rfl⟩

theorem witness_ResetDrawsEverything :
    (mrs5.setTurns [.environment (.reset .warm draw)]).turns = [.environment (.reset .warm draw)] := rfl

theorem witness_InputChangeIsSeenByNextStep :
    (mrs5.setTurns [.environment (.changeInputs p3.inputs p3.pstate), .pe]).turns
      = [.environment (.changeInputs p3.inputs p3.pstate), .pe] := rfl

end Sys2Proof.Tests
end

section
/-! PROOF. The PE's step at an aligned pc at which a whole instruction word stands. -/

namespace Sys2Proof.Machine

/-- Four listed bytes at consecutive addresses are a word. -/
theorem Memory.readWordBytes_of_read {a : Nat} {m : Memory} {b0 b1 b2 b3 : Byte}
    (h0 : Memory.read a m = some b0) (h1 : Memory.read (a + 1) m = some b1)
    (h2 : Memory.read (a + 2) m = some b2) (h3 : Memory.read (a + 3) m = some b3) :
    Memory.readWordBytes a m = some (b0, b1, b2, b3) := by
  simp only [Memory.readWordBytes, h0, h1, h2, h3]

/-- A word at an aligned pc is fetched, unless the text stands across the top (R37, R48). -/
theorem fetch_eq_ok {s : State} {b0 b1 b2 b3 : Byte} (ha : Aligned s.pc) (ht : Memory.acrossTop s.mem = false)
    (hw : Memory.readWordBytes s.pc.toNat s.mem = some (b0, b1, b2, b3)) : s.fetch = .ok [b0, b1, b2, b3] := by
  have aligned : ¬ s.pc.toNat % 4 ≠ 0 := not_not.mpr ha
  simp only [State.fetch, aligned, ht, hw, if_false, Bool.false_eq_true]

/-- Fetched bytes that decode to an FPSR access are executed (R12, R45). -/
theorem stepPE_eq_exec {p : State} {bytes rest : List Byte} {i : Instr} (hf : p.fetch = .ok bytes)
    (hd : decode bytes = .ok (i, rest)) : p.stepPE = exec i p := by
  simp only [State.stepPE, hf, hd]

/-- Where the PE moves and runs an FPSR access, the step is that access's execution. -/
theorem step_of_runs {s p : State} {i : Instr} (h : s.Runs p i) : step s = exec i p := by
  obtain ⟨hp, bytes, rest, hf, hd⟩ := h
  exact (step_of_peTurn hp).trans (stepPE_eq_exec hf hd)

/-- With no turn scheduled the PE executes from the state itself. -/
theorem peTurn_of_turns_nil {s : State} (h : s.turns = []) : s.peTurn = some s := by
  simp only [State.peTurn, h]

/-- With the PE's turn first the PE executes from the state without it. -/
theorem peTurn_of_turns_pe {s : State} {q : List Turn} (h : s.turns = .pe :: q) : s.peTurn = some (s.setTurns q) := by
  simp only [State.peTurn, h]

/-- What is fetched does not depend on the turns. -/
@[simp] theorem fetch_setTurns (s : State) (q : List Turn) : (s.setTurns q).fetch = s.fetch := rfl

/-- Settles O5: the fetch answers the four bytes, whatever the turns, so the state the PE executes from runs the instruction. -/
theorem stepRunsDecodedInstruction : Obligations.StepRunsDecodedInstruction := by
  intro s b0 b1 b2 b3 i rest ha ht h0 h1 h2 h3 hd
  have hf : s.fetch = .ok [b0, b1, b2, b3] := fetch_eq_ok ha ht (Memory.readWordBytes_of_read h0 h1 h2 h3)
  constructor
  · intro hn
    exact step_of_runs ⟨peTurn_of_turns_nil hn, _, _, hf, hd⟩
  · intro q hq
    exact step_of_runs ⟨peTurn_of_turns_pe hq, _, _, (fetch_setTurns s q).trans hf, hd⟩

end Sys2Proof.Machine
end

section
/-! PROOF. The access check read backwards: when it allows (R107), and where a trap to EL3 comes from (R66 to R69). -/

namespace Sys2Proof.Machine

/-- An outcome that an arm of the check does not give comes from the arms after it, the arm's condition being false. -/
theorem ite_eq_iff_of_ne {b : Bool} {arm rest o : AccessOutcome} (h : arm ≠ o) :
    (if b then arm else rest) = o ↔ b = false ∧ rest = o := by
  cases b <;> simp [h]

/-! ### The check against R107's conditions, level by level -/

/-- `FPEN` has bit 0 set exactly where it is '01' or '11'. -/
theorem matchesX0_eq_false_iff (f : BitVec 2) : matchesX0 f = false ↔ f = 0b01 ∨ f = 0b11 := by
  revert f; decide

theorem checkEL3Control_eq_allow_iff {c : Config} {i : Inputs} :
    checkEL3Control c i = .allow ↔ el3Allows c i := by
  have refusal : (if i.halted && i.edscrSDD then AccessOutcome.undef else .trap .el3 0x07) ≠ .allow := by
    split <;> nofun
  rw [checkEL3Control, ite_eq_iff_of_ne refusal, el3Allows]
  cases c.haveEL3 <;> simp

theorem debugUndef_eq_false_of_el3Allows {c : Config} {i : Inputs} (h : el3Allows c i) : debugUndef c i = false := by
  cases hc : c.haveEL3 with
  | false => simp [debugUndef, hc]
  | true => simp [debugUndef, h hc]

/-- The two EL2 arms are passed exactly where R107's condition at EL2 holds. -/
theorem el2Arms_pass_iff (i : Inputs) :
    ((!i.hcrEL2E2H && i.cptrEL2TFP) = false ∧ (i.hcrEL2E2H && matchesX0 i.cptrEL2FPEN) = false) ↔ i.el2Allows := by
  rw [Inputs.el2Allows, ← matchesX0_eq_false_iff]
  cases i.hcrEL2E2H <;> simp

/-- Where EL2 is consulted only if it is enabled (EL0 and EL1), so is R107's condition at EL2. -/
theorem el2EnabledArms_pass_iff (i : Inputs) :
    ((i.el2Enabled && !i.hcrEL2E2H && i.cptrEL2TFP) = false
        ∧ (i.el2Enabled && i.hcrEL2E2H && matchesX0 i.cptrEL2FPEN) = false)
      ↔ (i.el2Enabled = true → i.el2Allows) := by
  rw [← el2Arms_pass_iff]
  cases i.el2Enabled <;> simp

/-- The two `FPEN` arms of EL0 are passed exactly where the one that applies is '11'. -/
theorem el0FpenArms_pass_iff (i : Inputs) :
    ((!(i.el2Enabled && (i.hcrEL2E2H && i.hcrEL2TGE)) && i.cpacrEL1FPEN != 0b11) = false
        ∧ (i.el2Enabled && (i.hcrEL2E2H && i.hcrEL2TGE) && i.cptrEL2FPEN != 0b11) = false)
      ↔ if i.hostEL0 then i.cptrEL2FPEN = 0b11 else i.cpacrEL1FPEN = 0b11 := by
  have host : (i.el2Enabled && (i.hcrEL2E2H && i.hcrEL2TGE)) = decide i.hostEL0 := by simp [Inputs.hostEL0]
  rw [host]
  by_cases h : i.hostEL0
  · rw [if_pos h, decide_eq_true h]; simp
  · rw [if_neg h, decide_eq_false h]; simp

theorem checkEL2_eq_allow_iff {c : Config} {i : Inputs} :
    checkEL2 c i = .allow ↔ i.el2Allows ∧ el3Allows c i := by
  simp only [checkEL2, ite_eq_iff_of_ne, ne_eq, reduceCtorEq, not_false_eq_true, checkEL3Control_eq_allow_iff,
    ← el2Arms_pass_iff]
  have debug := @debugUndef_eq_false_of_el3Allows c i
  tauto

theorem checkEL1_eq_allow_iff {c : Config} {i : Inputs} :
    checkEL1 c i = .allow ↔ (i.cpacrEL1FPEN = 0b01 ∨ i.cpacrEL1FPEN = 0b11)
      ∧ (i.el2Enabled = true → i.el2Allows) ∧ el3Allows c i := by
  simp only [checkEL1, ite_eq_iff_of_ne, ne_eq, reduceCtorEq, not_false_eq_true, checkEL3Control_eq_allow_iff,
    ← el2EnabledArms_pass_iff, ← matchesX0_eq_false_iff]
  have debug := @debugUndef_eq_false_of_el3Allows c i
  tauto

theorem checkEL0_eq_allow_iff {c : Config} {i : Inputs} :
    checkEL0 c i = .allow ↔ (if i.hostEL0 then i.cptrEL2FPEN = 0b11 else i.cpacrEL1FPEN = 0b11)
      ∧ (i.el2Enabled = true → i.el2Allows) ∧ el3Allows c i := by
  have arm2 : (if i.el2Enabled && i.hcrEL2TGE then AccessOutcome.trap .el2 0x00 else .trap .el1 0x07) ≠ .allow := by
    split <;> nofun
  simp only [checkEL0, ite_eq_iff_of_ne, arm2, ne_eq, reduceCtorEq, not_false_eq_true, checkEL3Control_eq_allow_iff,
    ← el2EnabledArms_pass_iff, ← el0FpenArms_pass_iff]
  have debug := @debugUndef_eq_false_of_el3Allows c i
  tauto

/-- The check allows an access exactly where R107's conditions hold. -/
theorem checkAccess_eq_allow_iff (s : State) : s.checkAccess = .allow ↔ s.accessEnabled := by
  unfold State.checkAccess State.accessEnabled
  cases h : s.pstate.el <;> simp only [checkFpsrAccess, reduceCtorEq, false_implies, true_and, and_true, forall_const]
  case el0 => exact checkEL0_eq_allow_iff
  case el1 => exact checkEL1_eq_allow_iff
  case el2 => exact checkEL2_eq_allow_iff
  case el3 => cases ht : s.inputs.cptrEL3TFP <;> simp [checkEL3, ht]

/-! ### A trap enters EL3 only where it is implemented (R66 to R69) -/

theorem haveEL3_of_checkEL3Control_trap {c : Config} {i : Inputs} {t : TrapTarget} {ec : BitVec 6}
    (h : checkEL3Control c i = .trap t ec) : c.haveEL3 = true := by
  by_contra hc
  simp [checkEL3Control, hc] at h

/-- A trap to EL3 comes from EL3 itself or from the EL3 control alone, which needs EL3 to be implemented. -/
theorem haveEL3_of_checkFpsrAccess_trap {c : Config} {el : EL} {i : Inputs} {ec : BitVec 6}
    (h : checkFpsrAccess c el i = .trap .el3 ec) : c.haveEL3 = true ∨ el = .el3 := by
  have arm2 : (if i.el2Enabled && i.hcrEL2TGE then AccessOutcome.trap .el2 0x00 else .trap .el1 0x07)
      ≠ .trap .el3 ec := by
    split <;> simp
  cases el with
  | el0 =>
    simp only [checkFpsrAccess, checkEL0, ite_eq_iff_of_ne, arm2, ne_eq, AccessOutcome.trap.injEq, reduceCtorEq,
      false_and, not_false_eq_true] at h
    obtain ⟨-, -, -, -, -, control⟩ := h
    exact .inl (haveEL3_of_checkEL3Control_trap control)
  | el1 =>
    simp only [checkFpsrAccess, checkEL1, ite_eq_iff_of_ne, ne_eq, AccessOutcome.trap.injEq, reduceCtorEq,
      false_and, not_false_eq_true] at h
    obtain ⟨-, -, -, -, control⟩ := h
    exact .inl (haveEL3_of_checkEL3Control_trap control)
  | el2 =>
    simp only [checkFpsrAccess, checkEL2, ite_eq_iff_of_ne, ne_eq, AccessOutcome.trap.injEq, reduceCtorEq,
      false_and, not_false_eq_true] at h
    obtain ⟨-, -, -, control⟩ := h
    exact .inl (haveEL3_of_checkEL3Control_trap control)
  | el3 => exact .inr rfl

end Sys2Proof.Machine
end

section
/-! PROOF. The PE's step where it stops: each refusal by name, and the final end of a run (R37, R48, R58, R114). -/

namespace Sys2Proof.Machine

/-! ### The fetch, refusal by refusal -/

theorem fetch_of_misaligned {p : State} (ha : ¬ Aligned p.pc) : p.fetch = .error .misalignedPC :=
  if_pos ha

theorem fetch_of_acrossTop {p : State} (ha : Aligned p.pc) (ht : Memory.acrossTop p.mem = true) :
    p.fetch = .error .programAcrossTop := by
  have aligned : ¬ p.pc.toNat % 4 ≠ 0 := not_not.mpr ha
  simp only [State.fetch, aligned, ht, if_false, if_true]

theorem fetch_of_noWord {p : State} (ha : Aligned p.pc) (ht : Memory.acrossTop p.mem = false)
    (hw : Memory.readWordBytes p.pc.toNat p.mem = none) :
    p.fetch = .error (if p.atEnd then .endOfProgram else .noWordAtPC) := by
  have aligned : ¬ p.pc.toNat % 4 ≠ 0 := not_not.mpr ha
  simp only [State.fetch, aligned, ht, hw, if_false, Bool.false_eq_true]
  split <;> rfl

/-- The pc is past the last word exactly where it is the address after the highest listed byte, modulo 2^64. -/
theorem atEnd_iff {p : State} :
    p.atEnd = true ↔ ∃ a, Memory.lastAddr p.mem = some a ∧ p.pc.toNat = (a + 1) % 2 ^ 64 := by
  unfold State.atEnd
  cases Memory.lastAddr p.mem <;> simp

/-- The fetch finds the end of the program exactly where no earlier refusal and no word comes first. -/
theorem fetch_eq_endOfProgram_iff {p : State} :
    p.fetch = .error .endOfProgram ↔ Aligned p.pc ∧ Memory.acrossTop p.mem = false
      ∧ Memory.readWordBytes p.pc.toNat p.mem = none ∧ p.atEnd = true := by
  constructor
  · intro h
    by_cases ha : Aligned p.pc
    case neg => rw [fetch_of_misaligned ha] at h; cases h
    cases ht : Memory.acrossTop p.mem with
    | true => rw [fetch_of_acrossTop ha ht] at h; cases h
    | false =>
      cases hw : Memory.readWordBytes p.pc.toNat p.mem with
      | some b => rw [fetch_eq_ok ha ht hw] at h; cases h
      | none =>
        rw [fetch_of_noWord ha ht hw] at h
        exact ⟨ha, rfl, rfl, by by_contra he; simp [he] at h⟩
  · rintro ⟨ha, ht, hw, he⟩
    rw [fetch_of_noWord ha ht hw, if_pos he]

/-! ### What the step answers after the fetch -/

/-- A refusal of the fetch is the refusal of the step. -/
theorem step_of_fetch_error {s p : State} {r : Refusal} (hp : s.peTurn = some p) (hf : p.fetch = .error r) :
    step s = .refused r := by
  simp only [step_of_peTurn hp, State.stepPE, hf]

/-- Fetched bytes that are no FPSR access go to the surrounding model (R58). -/
theorem stepPE_eq_runSurrounding {p : State} {bytes : List Byte} {e : DecodeReject} (hf : p.fetch = .ok bytes)
    (hd : decode bytes = .error e) : p.stepPE = p.runSurrounding (fetchedWord bytes) := by
  simp only [State.stepPE, hf, hd]

/-- Where the PE runs no FPSR access and a step is supplied, the machine's step is the supplied one. -/
theorem step_of_runsOther {s p : State} {st : SuppliedStep} {q : List SuppliedStep} (h : s.RunsOther p)
    (hs : p.supplied = st :: q) : step s = p.runStep st q := by
  obtain ⟨hp, bytes, e, hf, hd⟩ := h
  rw [step_of_peTurn hp, stepPE_eq_runSurrounding hf hd]
  simp only [State.runSurrounding, hs]

theorem runStep_of_illFormed {p : State} {st : SuppliedStep} {q : List SuppliedStep} (h : st.wellFormed = false) :
    p.runStep st q = .refused .illFormedSupply := by
  simp only [State.runStep, h, Bool.false_eq_true, if_false]

/-- Settles O6: each refusal of the fetch stops the step; after it, the surrounding model refuses an empty or ill-formed supply. -/
theorem stepStopsByName : Obligations.StepStopsByName := by
  intro s p hp
  refine ⟨fun ha => ?_, fun ha ht => ?_, fun ha ht hw => ?_, fun b0 b1 b2 b3 e hf hd hs => ?_,
    fun ho st q hs hw => ?_⟩
  · exact step_of_fetch_error hp (fetch_of_misaligned ha)
  · exact step_of_fetch_error hp (fetch_of_acrossTop ha ht)
  · exact step_of_fetch_error hp (fetch_of_noWord ha ht hw)
  · rw [step_of_peTurn hp, stepPE_eq_runSurrounding hf hd]
    simp only [State.runSurrounding, hs, fetchedWord]
  · exact (step_of_runsOther ho hs).trans (runStep_of_illFormed hw)

/-! ### The final end -/

theorem endOf_eq_final_iff {r : Result} : endOf r = some .final ↔ r = .refused .endOfProgram := by
  cases r with
  | next u => simp [endOf]
  | fault f => simp [endOf]
  | refused r => cases r <;> simp [endOf]

/-- A direct access is never refused: it completes, is trapped or is UNDEFINED. -/
theorem exec_ne_refused (i : Instr) (s : State) (r : Refusal) : exec i s ≠ .refused r := by
  rw [exec_eq_accessFpsr]
  cases e : s.checkAccess with
  | allow => simp [accessFpsr_allow e]
  | trap t ec =>
    rw [accessFpsr_trap e, State.systemAccessTrap]
    cases s.config.trapEntry <;> simp
  | undef => simp [accessFpsr_undef e]

/-- The surrounding model never ends a run as final. -/
theorem runSurrounding_ne_endOfProgram (p : State) (w : InstrWord) :
    p.runSurrounding w ≠ .refused .endOfProgram := by
  unfold State.runSurrounding State.runStep State.trapSupplied
  split
  · nofun
  · split_ifs <;> nofun

/-- Only the fetch ends a run as final. -/
theorem stepPE_eq_endOfProgram_iff {p : State} :
    p.stepPE = .refused .endOfProgram ↔ p.fetch = .error .endOfProgram := by
  cases hf : p.fetch with
  | error r => simp [State.stepPE, hf]
  | ok bytes =>
    cases hd : decode bytes with
    | ok ir => simp [stepPE_eq_exec hf hd, exec_ne_refused]
    | error e => simp [stepPE_eq_runSurrounding hf hd, runSurrounding_ne_endOfProgram]

/-- A step is refused only where the PE moves. -/
theorem peTurn_of_step_refused {s : State} {r : Refusal} (h : step s = .refused r) : ∃ p, s.peTurn = some p := by
  unfold step State.move at h
  split at h
  · exact ⟨s, peTurn_of_turns_nil ‹_›⟩
  · exact ⟨_, peTurn_of_turns_pe ‹_›⟩
  · cases h

/-- Settles O7: the final end is the refusal `endOfProgram`, which only the fetch raises, and there exactly past the last byte. -/
theorem finalExactlyPastLastWord : Obligations.FinalExactlyPastLastWord := by
  intro s
  rw [endOf_eq_final_iff]
  constructor
  · intro h
    obtain ⟨p, hp⟩ := peTurn_of_step_refused h
    rw [step_of_peTurn hp, stepPE_eq_endOfProgram_iff, fetch_eq_endOfProgram_iff, atEnd_iff] at h
    obtain ⟨ha, ht, hw, a, hl, hpc⟩ := h
    exact ⟨p, a, hp, ha, ht, hw, hl, hpc⟩
  · rintro ⟨p, a, hp, ha, ht, hw, hl, hpc⟩
    rw [step_of_peTurn hp, stepPE_eq_endOfProgram_iff, fetch_eq_endOfProgram_iff, atEnd_iff]
    exact ⟨ha, ht, hw, a, hl, hpc⟩

end Sys2Proof.Machine
end

section
/-! PROOF. The invariant of the machine holds at reset and every step keeps it (R35, R37, R48). -/

namespace Sys2Proof.Machine

/-- The pc after an FPSR access stays aligned, also where it wraps (R37). -/
theorem aligned_add_four {a : Word} (h : Aligned a) : Aligned (a + 4) := by
  have sum : (a + 4).toNat = (a.toNat + 4) % 2 ^ 64 := BitVec.toNat_add a 4
  have : a.toNat % 4 = 0 := h
  show (a + 4).toNat % 4 = 0
  omega

theorem TrapTarget.toEL_eq_el3_iff {t : TrapTarget} : t.toEL = .el3 ↔ t = .el3 := by
  cases t <;> simp [TrapTarget.toEL]

/-- The re-route of R103 leads to EL2 or leaves the target. -/
theorem eq_el3_of_routeTrap_toEL {i : Inputs} {t : TrapTarget} (h : (i.routeTrap t).toEL = .el3) : t = .el3 := by
  unfold Inputs.routeTrap at h
  split at h
  · cases h
  · exact TrapTarget.toEL_eq_el3_iff.mp h

/-! ### The exception banks -/

theorem ExcRegs.legal.get {c : Config} {e : ExcRegs} (h : e.legal c) (t : TrapTarget) : (e.get t).legal c := by
  obtain ⟨h1, h2, h3⟩ := h
  cases t <;> assumption

theorem ExcRegs.legal.set {c : Config} {e : ExcRegs} {b : ExcBank} (h : e.legal c) (t : TrapTarget)
    (hb : b.legal c) : (e.set t b).legal c := by
  obtain ⟨h1, h2, h3⟩ := h
  cases t
  · exact ⟨hb, h2, h3⟩
  · exact ⟨h1, hb, h3⟩
  · exact ⟨h1, h2, hb⟩

/-! ### Each move keeps the invariant -/

/-- Turns that are used up leave the others, which stay legal. -/
theorem State.Inv.setTurns {s : State} (h : s.Inv) {q : List Turn} (hq : q ⊆ s.turns) : (s.setTurns q).Inv where
  mem_wf := h.mem_wf
  pc_aligned := h.pc_aligned
  el_legal := h.el_legal
  exc_legal := h.exc_legal
  supplied_aligned := h.supplied_aligned
  turns_legal t ht := h.turns_legal t (hq ht)

/-- The turns of the state the PE executes from are turns of the machine. -/
theorem peTurn_turns_subset {s p : State} (h : s.peTurn = some p) : p.turns ⊆ s.turns := by
  unfold State.peTurn at h
  split at h
  · cases h; exact List.Subset.refl _
  · rename_i q hq; cases h; rw [hq]; exact List.subset_cons_self _ _
  · cases h

theorem State.Inv.of_peTurn {s p : State} (h : s.Inv) (hp : s.peTurn = some p) : p.Inv :=
  peTurn_eq hp ▸ h.setTurns (peTurn_turns_subset hp)

/-- A legal action of the environment keeps the invariant. -/
theorem State.Inv.applyAction {s : State} (h : s.Inv) {a : EnvAction} (ha : (Turn.environment a).legal s.config) :
    (s.applyAction a).Inv := by
  cases a with
  | reset k d =>
    obtain ⟨hel, hpc, hexc⟩ := ha
    exact ⟨h.mem_wf, hpc, hel, hexc, h.supplied_aligned, h.turns_legal⟩
  | changeInputs i p => exact ⟨h.mem_wf, h.pc_aligned, ha, h.exc_legal, h.supplied_aligned, h.turns_legal⟩

/-- A trap taken keeps the invariant: it saves a legal PSTATE, enters an implemented level and goes on at its aligned vector. -/
theorem State.Inv.takeException {s : State} (h : s.Inv) {t : TrapTarget} {ec : BitVec 6}
    (ht : s.checkAccess = .trap t ec) : (s.takeException t ec).Inv where
  mem_wf := h.mem_wf
  pc_aligned := (h.exc_legal.get (s.inputs.routeTrap t)).2
  el_legal hel := by
    obtain rfl := eq_el3_of_routeTrap_toEL hel
    exact (haveEL3_of_checkFpsrAccess_trap ht).elim id h.el_legal
  exc_legal :=
    h.exc_legal.set (s.inputs.routeTrap t) ⟨h.el_legal, (h.exc_legal.get (s.inputs.routeTrap t)).2⟩
  supplied_aligned := h.supplied_aligned
  turns_legal := h.turns_legal

/-- The move of an FPSR access leaves everything the invariant speaks of. -/
theorem act_frame (i : Instr) (s : State) :
    (Instr.act i s).mem = s.mem ∧ (Instr.act i s).pc = s.pc ∧ (Instr.act i s).pstate = s.pstate
      ∧ (Instr.act i s).config = s.config ∧ (Instr.act i s).exc = s.exc
      ∧ (Instr.act i s).supplied = s.supplied ∧ (Instr.act i s).turns = s.turns := by
  cases i <;> simp [Instr.act]

/-- An FPSR access that completes moves the pc on by one word. -/
theorem State.Inv.advance {s : State} (h : s.Inv) (i : Instr) : (Instr.act i s).advancePc.Inv := by
  obtain ⟨hmem, hpc, hel, hexc, hsup, hturns⟩ := h
  obtain ⟨mem, pc, pstate, config, exc, supplied, turns⟩ := act_frame i s
  constructor
  case mem_wf => rwa [State.advancePc_mem, mem]
  case pc_aligned => rw [State.advancePc_pc, pc]; exact aligned_add_four hpc
  case el_legal => rwa [State.advancePc_pstate, State.advancePc_config, pstate, config]
  case exc_legal => rwa [State.advancePc_exc, State.advancePc_config, exc, config]
  case supplied_aligned => rwa [State.advancePc_supplied, supplied]
  case turns_legal => rwa [State.advancePc_turns, State.advancePc_config, turns, config]

/-- An FPSR access keeps the invariant, whether it completes or is trapped. -/
theorem State.Inv.exec {s u : State} {i : Instr} (h : s.Inv) (hu : exec i s = .next u) : u.Inv := by
  rw [exec_eq_accessFpsr] at hu
  rcases accessFpsr_next hu with ⟨-, rfl⟩ | ⟨t, ec, ht, -, rfl⟩
  · exact h.advance i
  · exact h.takeException ht

/-- A comparison leaves the Exception level (R85). -/
@[simp] theorem PState.setCompare_el (p : PState) (f : Option CompareFlags) : (p.setCompare f).el = p.el := by
  cases f <;> rfl

/-- A supplied step keeps the invariant: the pc it leaves is aligned. -/
theorem State.Inv.completeSupplied {s : State} {st : SuppliedStep} {q : List SuppliedStep} (h : s.Inv)
    (hs : s.supplied = st :: q) : (s.completeSupplied st q).Inv := by
  obtain ⟨hmem, hpc, hel, hexc, hsup, hturns⟩ := h
  rw [hs, List.forall_mem_cons] at hsup
  obtain ⟨hnext, hrest⟩ := hsup
  constructor
  case mem_wf => rwa [completeSupplied_mem]
  case pc_aligned => rwa [completeSupplied_pc]
  case el_legal => rwa [PState.legal, completeSupplied_pstate, PState.setCompare_el, completeSupplied_config]
  case exc_legal => rwa [completeSupplied_exc, completeSupplied_config]
  case supplied_aligned => rwa [completeSupplied_supplied]
  case turns_legal => rwa [completeSupplied_turns, completeSupplied_config]

/-- Settles O35: by the three ways a step answers a next state, each of which keeps the invariant. -/
theorem stepKeepsInv : Obligations.StepKeepsInv := by
  intro s u h hu
  rcases step_next hu with ⟨a, q, hq, rfl⟩ | ⟨p, i, ⟨hp, -⟩, hx⟩ | ⟨p, st, q, ⟨hp, -⟩, hs, -, -, rfl⟩
  · have legal : (Turn.environment a).legal s.config := h.turns_legal _ (by simp [hq])
    exact (h.setTurns (by simp [hq])).applyAction legal
  · exact (h.of_peTurn hp).exec hx
  · exact (h.of_peTurn hp).completeSupplied hs

/-- Settles O36: the reset state has no text, no supply and no turns, its addresses are 0 and no PSTATE in it is at EL3. -/
theorem resetMeetsInv : Obligations.ResetMeetsInv where
  mem_wf := reset_mem_wf
  pc_aligned := rfl
  el_legal h := by cases h
  exc_legal := ⟨⟨nofun, rfl⟩, ⟨nofun, rfl⟩, nofun, rfl⟩
  supplied_aligned := by simp [State.reset]
  turns_legal := by simp [State.reset]

end Sys2Proof.Machine
end

section
/-! PROOF. A loaded program stands at its addresses, or is refused where it stands across the top (R37, R55, R114). -/

namespace Sys2Proof.Machine

/-- A word is read from its four bytes alone. -/
theorem Memory.readWordBytes_congr {a : Nat} {m m' : Memory}
    (h : ∀ i < 4, Memory.read (a + i) m = Memory.read (a + i) m') :
    Memory.readWordBytes a m = Memory.readWordBytes a m' := by
  have h0 : Memory.read a m = Memory.read a m' := h 0 (by omega)
  rw [Memory.readWordBytes, Memory.readWordBytes, h0, h 1 (by omega), h 2 (by omega), h 3 (by omega)]

/-- A byte outside a program that ends within the address space reads as before the load. -/
theorem Memory.read_writeWords_other {a a' : Nat} {ws : List InstrWord} (m : Memory)
    (hfit : a + 4 * ws.length ≤ 2 ^ 64) (h : a' < a ∨ a + 4 * ws.length ≤ a') :
    Memory.read a' (Memory.writeWords a ws m) = Memory.read a' m := by
  induction ws generalizing a m with
  | nil => rfl
  | cons w rest ih =>
    rw [List.length_cons] at hfit h
    rw [Memory.writeWords, ih _ (by omega) (by omega)]
    refine Memory.read_writeBytes_other m fun k hk => ?_
    have : k < 4 := hk
    omega

/-- Each word of a program that ends within the address space stands at its address, least significant byte first. -/
theorem Memory.readWordBytes_writeWords {a i : Nat} {ws : List InstrWord} (m : Memory)
    (hfit : a + 4 * ws.length ≤ 2 ^ 64) (hi : i < ws.length) :
    Memory.readWordBytes (a + 4 * i) (Memory.writeWords a ws m)
      = some (ws[i].extractLsb' 0 8, ws[i].extractLsb' 8 8, ws[i].extractLsb' 16 8, ws[i].extractLsb' 24 8) := by
  induction ws generalizing a i m with
  | nil => cases hi
  | cons w rest ih =>
    rw [List.length_cons] at hfit hi
    rw [Memory.writeWords]
    cases i with
    | zero =>
      calc Memory.readWordBytes a (Memory.writeWords (a + 4) rest (Memory.writeBytes a (bytesOfWord w) m))
          = Memory.readWordBytes a (Memory.writeBytes a (bytesOfWord w) m) :=
            Memory.readWordBytes_congr fun k hk => Memory.read_writeWords_other _ (by omega) (by omega)
        _ = _ := Memory.readWordBytes_writeBytes _ _ _ _ m (by omega)
    | succ i =>
      rw [show a + 4 * (i + 1) = a + 4 + 4 * i by omega]
      exact ih _ (by omega) (by omega)

/-- A program that ends within the address space and leaves some of it free leaves one of its two ends free. -/
theorem Memory.acrossTop_writeWords_eq_false {a : Nat} {ws : List InstrWord} (hlen : 4 * ws.length < 2 ^ 64)
    (hfit : a + 4 * ws.length ≤ 2 ^ 64) : Memory.acrossTop (Memory.writeWords a ws []) = false := by
  rcases Nat.eq_zero_or_pos a with rfl | pos
  · have top := Memory.read_writeWords_other (a' := 2 ^ 64 - 1) [] hfit (by omega)
    rw [Memory.acrossTop, top]
    rfl
  · have zero := Memory.read_writeWords_other (a' := 0) [] hfit (by omega)
    rw [Memory.acrossTop, zero, Memory.read, Option.isSome_none, Bool.and_false]

/-- Settles O41: above the top both ends of the address space are listed and the fetch refuses; otherwise the bytes written are the
bytes listed. -/
theorem loadedProgramStandsOrIsRefused : Obligations.LoadedProgramStandsOrIsRefused := by
  intro s entry words _ hlen
  rw [State.loadProgram_mem]
  constructor
  · intro htop pc ha
    have across : Memory.acrossTop (Memory.writeWords entry.toNat words []) = true :=
      Memory.acrossTop_writeWords [] entry.isLt hlen.le htop
    exact step_of_fetch_error (peTurn_of_turns_nil rfl) (fetch_of_acrossTop ha across)
  · intro hfit
    exact ⟨Memory.acrossTop_writeWords_eq_false hlen hfit, Memory.writeWords_wf rfl,
      fun i hi => Memory.readWordBytes_writeWords [] hfit hi,
      fun a ha => Memory.read_writeWords_other [] hfit ha⟩

end Sys2Proof.Machine
end

section
/-! PROOF. What a step leaves: FPSR until a rule writes it, the frame of a supplied step, and what a reset draws (R37, R41, R42,
R85, R105, R106). -/

namespace Sys2Proof.Machine

/-- The state the PE executes from is the machine's with the turns replaced. -/
theorem exists_setTurns_of_peTurn {s p : State} (h : s.peTurn = some p) : ∃ ts, p = s.setTurns ts :=
  ⟨_, peTurn_eq h⟩

/-- Settles O32: by the three ways a step answers a next state; a change of inputs, an MRS and a taken trap leave FPSR. -/
theorem fpsrStableUntilWritten : Obligations.FpsrStableUntilWritten := by
  intro s u hreset hmsr hother hu
  rcases step_next hu with ⟨a, q, hq, rfl⟩ | ⟨p, i, hrun, hx⟩ | ⟨p, st, q, hrun, -⟩
  · cases a with
    | reset k d => exact absurd ⟨k, d, q, hq⟩ hreset
    | changeInputs i p => rfl
  · obtain ⟨ts, rfl⟩ := exists_setTurns_of_peTurn hrun.1
    cases i with
    | msrFpsr t => exact absurd hrun (hmsr _ t)
    | mrsFpsr t =>
      rcases accessFpsr_next hx with ⟨-, rfl⟩ | ⟨_, _, -, -, rfl⟩
      · exact State.moveFromFpsr_fpsr ..
      · rfl
  · exact absurd hrun (hother p)

/-- The registers after a supplied step are those its writes leave, one after the other. -/
theorem completeSupplied_x (s : State) (st : SuppliedStep) (q : List SuppliedStep) :
    (s.completeSupplied st q).x = (s.writeXs st.xWrites).x := by
  rw [State.completeSupplied, State.setSupplied_x, State.setPc_x]
  exact State.writeXs_x_congr _ rfl

/-- A comparison sets all four flags of PSTATE (R85). -/
theorem PState.setCompare_some (p : PState) (f : CompareFlags) :
    (p.setCompare (some f)).n = f.n ∧ (p.setCompare (some f)).z = f.z ∧ (p.setCompare (some f)).c = f.c
      ∧ (p.setCompare (some f)).v = f.v := ⟨rfl, rfl, rfl, rfl⟩

/-- Settles O29: the next state is the completed supplied step, from a state that differs from the machine's in the turns alone. -/
theorem surroundingStepFrame : Obligations.SurroundingStepFrame := by
  intro s p u st q hrun hs hu
  rw [step_of_runsOther hrun hs] at hu
  obtain ⟨-, -, rfl⟩ := runStep_next hu
  obtain ⟨ts, rfl⟩ := exists_setTurns_of_peTurn hrun.1
  have pstate : ((s.setTurns ts).completeSupplied st q).pstate = s.pstate.setCompare st.compare :=
    completeSupplied_pstate ..
  have regs : ∀ r, ((s.setTurns ts).completeSupplied st q).readX r = (s.writeXs st.xWrites).readX r :=
    State.readX_congr ((completeSupplied_x ..).trans (State.writeXs_x_congr _ rfl))
  refine ⟨completeSupplied_pc .., completeSupplied_supplied .., completeSupplied_turns .., ?_, ?_, ?_, regs, ?_,
    completeSupplied_inputs .., completeSupplied_exc .., completeSupplied_config .., ?_⟩
  · rw [pstate, PState.setCompare_el]
  · intro hc; rw [pstate, hc]; rfl
  · intro f hc; rw [pstate, hc]; exact PState.setCompare_some _ f
  · intro r hr; rw [regs, State.readX_writeXs_of_notMem _ _ hr]
  · intro a; rw [completeSupplied_mem]; rfl

/-- With the environment's turn first, the step is its action, and the turn is used up. -/
theorem step_of_environment {s : State} {a : EnvAction} {q : List Turn} (h : s.turns = .environment a :: q) :
    step s = .next ((s.setTurns q).applyAction a) := by
  simp only [step, State.move, h]

/-- Settles O37: the step is the reset event, which does not look at its kind. -/
theorem resetDrawsEverything : Obligations.ResetDrawsEverything := by
  intro s k d q hq
  have again : ∀ k', step (s.setTurns (.environment (.reset k' d) :: q)) = .next ((s.setTurns q).applyReset k d) :=
    fun k' => step_of_environment (State.setTurns_turns ..)
  exact ⟨_, step_of_environment hq, rfl, rfl, rfl, rfl, rfl, rfl, rfl, rfl, rfl, rfl, again⟩

end Sys2Proof.Machine
end

section
/-! PROOF. The layout of FPSR (R4, R13). -/

namespace Sys2Proof.Machine

/-- The eleven named fields (R13). -/
def FpsrField.all : List FpsrField := [.n, .z, .c, .v, .qc, .idc, .ixc, .ufc, .ofc, .dzc, .ioc]

/-- The fields that depend on AArch32 are the four that are not cumulative (R4, R74). -/
theorem FpsrField.present_iff (c : Config) (f : FpsrField) :
    f.present c = true ↔ c.haveAArch32FP = true ∨ f.cumulative = true := by
  cases f <;> simp [FpsrField.present, FpsrField.cumulative]

/-- Every bit of FIELD_MASK is the bit of a field that exists: of any field with AArch32, else of a cumulative one. -/
theorem exists_present_of_fieldMask {c : Config} {n : Nat} (h : (fieldMask c).getLsbD n = true) :
    ∃ f : FpsrField, f.present c = true ∧ f.bit = n := by
  have hn : n < 64 := BitVec.lt_of_getLsbD h
  have full : ∀ n < 64, (0x00000000F800009F : Word).getLsbD n = true → ∃ f ∈ FpsrField.all, f.bit = n := by decide
  have without : ∀ n < 64, (0x000000000800009F : Word).getLsbD n = true →
      ∃ f ∈ FpsrField.all, f.cumulative = true ∧ f.bit = n := by decide
  simp only [FpsrField.present_iff]
  unfold fieldMask at h
  split at h
  · rename_i hc
    obtain ⟨f, -, hf⟩ := full n hn h
    exact ⟨f, .inl hc, hf⟩
  · obtain ⟨f, -, hcum, hf⟩ := without n hn h
    exact ⟨f, .inr hcum, hf⟩

/-- Settles O40: the masks bit by bit. -/
theorem fieldMaskIsTheLayout : Obligations.FieldMaskIsTheLayout := by
  refine ⟨rfl, fun c => ⟨res0Mask_eq_not c, fun h => if_pos h, fun h => if_neg (by simp [h]), fun n => ?_⟩⟩
  constructor
  · exact exists_present_of_fieldMask
  · rintro ⟨f, hf, rfl⟩
    exact fieldMask_of_present hf

end Sys2Proof.Machine
end

section
/-! PROOF. The outcome of an access by whether it is enabled, and register number 31 (R36, R57, R107). -/

namespace Sys2Proof.Machine

/-- Where the access is enabled, an instruction completes: its move, and the pc moved on. -/
theorem exec_of_accessEnabled {s : State} (h : s.accessEnabled) (i : Instr) :
    exec i s = .next (Instr.act i s).advancePc := by
  rw [exec_eq_accessFpsr, accessFpsr_allow ((checkAccess_eq_allow_iff s).mpr h)]

/-- An access that is not enabled has the outcome of the check, whatever the instruction and its operand. -/
theorem exec_eq_exec_of_not_accessEnabled {s : State} (h : ¬ s.accessEnabled) (i j : Instr) : exec i s = exec j s := by
  rw [exec_eq_accessFpsr, exec_eq_accessFpsr]
  cases e : s.checkAccess with
  | allow => exact absurd ((checkAccess_eq_allow_iff s).mp e) h
  | trap t ec => rw [accessFpsr_trap e, accessFpsr_trap e]
  | undef => rw [accessFpsr_undef e, accessFpsr_undef e]

/-- Settles O11: XZR reads 0 and keeps nothing, so MRS to it moves the pc alone and MSR from it stores 0; a refused access does
not look at its operand. -/
theorem xzrDiscardsAndClears : Obligations.XzrDiscardsAndClears := by
  intro s
  refine ⟨s.readX_xzr, s.writeX_xzr, fun h => ⟨?_, ?_⟩, fun h t => ⟨?_, ?_⟩⟩
  · exact ⟨_, exec_of_accessEnabled h (.mrsFpsr 31), rfl, rfl, rfl⟩
  · exact ⟨_, exec_of_accessEnabled h (.msrFpsr 31), rfl, s.readX_xzr, rfl⟩
  · exact exec_eq_exec_of_not_accessEnabled h _ _
  · exact exec_eq_exec_of_not_accessEnabled h _ _

end Sys2Proof.Machine
end

section
/-! PROOF. Two accesses to FPSR in a row, program order being their order (R28, R50, R51). -/

namespace Sys2Proof.Machine

/-- Whether an access is enabled is read from the parameters, PSTATE and the inputs alone (R65, R107). -/
theorem accessEnabled_congr {s u : State} (hc : u.config = s.config) (hp : u.pstate = s.pstate) (hi : u.inputs = s.inputs) :
    u.accessEnabled ↔ s.accessEnabled := by
  simp only [State.accessEnabled, hc, hp, hi]

/-- An access that completes leaves the next one enabled. -/
theorem accessEnabled_after_act {s : State} (h : s.accessEnabled) (i : Instr) :
    (Instr.act i s).advancePc.accessEnabled := by
  obtain ⟨-, -, -, -, hinputs⟩ := exec_keeps_text_and_config (exec_of_accessEnabled h i)
  obtain ⟨-, -, hpstate, hconfig, -⟩ := act_frame i s
  exact (accessEnabled_congr hconfig hpstate hinputs).mpr h

/-- An access that completes moves the pc on by one word (R37). -/
theorem pc_after_act (i : Instr) (s : State) : (Instr.act i s).advancePc.pc = s.pc + 4 := by
  obtain ⟨-, hpc, -⟩ := act_frame i s
  rw [State.advancePc_pc, hpc]

/-- After MRS its register holds what the read returned (R63). -/
theorem readX_after_mrs (s : State) {t : RegNum} (ht : t ≠ 31) :
    (Instr.act (.mrsFpsr t) s).advancePc.readX t = s.readFpsr := by
  have same : (s.writeX t s.readFpsr).readX t = s.readFpsr := by rw [State.readX_writeX, if_pos ⟨rfl, ht⟩]
  rw [← same]
  exact State.readX_congr rfl t

/-- A direct read returns each field that exists as stored. -/
theorem field_readFpsr {s : State} {f : FpsrField} (h : f.present s.config = true) :
    FpsrField.of s.readFpsr f = FpsrField.of s.fpsr f :=
  field_readFpsrWith _ _ h

/-- A stored FPSR of 0 reads as 0 under every policy. -/
theorem readFpsrWith_zero (c : Config) (draw : Word) : readFpsrWith c draw 0 = 0 := by
  unfold readFpsrWith
  cases c.res0Policy <;> simp

/-- Only the policy ANY looks at the draw (R28). -/
theorem readFpsrWith_draw_irrelevant {c : Config} (h : c.res0Policy ≠ .any) (draw draw' w : Word) :
    readFpsrWith c draw w = readFpsrWith c draw' w := by
  unfold readFpsrWith
  cases hp : c.res0Policy with
  | razWi => rfl
  | stored => rfl
  | any => exact absurd hp h

/-- Settles O12: MSR stores the whole of its register, and MRS reads the fields of what is stored; 0 reads as 0. -/
theorem readAfterWrite : Obligations.ReadAfterWrite := by
  intro a b s hs hb
  have enabled := accessEnabled_after_act hs (.msrFpsr a)
  refine ⟨_, _, exec_of_accessEnabled hs _, exec_of_accessEnabled enabled (.mrsFpsr b), fun f hf => ?_, ?_, ?_⟩
  · rw [readX_after_mrs _ hb]
    exact field_readFpsr hf
  · rintro rfl
    rw [readX_after_mrs _ hb]
    exact readFpsrWith_zero ..
  · rw [pc_after_act, pc_after_act, BitVec.add_assoc]
    rfl

/-- Settles O13: a read leaves FPSR, so both reads return its fields, and they differ in their draws alone. -/
theorem readsInARowAgree : Obligations.ReadsInARowAgree := by
  intro a b s hs ha hb
  have enabled := accessEnabled_after_act hs (.mrsFpsr a)
  have fpsr : (Instr.act (.mrsFpsr a) s).advancePc.fpsr = s.fpsr := State.moveFromFpsr_fpsr a s
  have config : (Instr.act (.mrsFpsr a) s).advancePc.config = s.config := State.moveFromFpsr_config a s
  refine ⟨_, _, exec_of_accessEnabled hs _, exec_of_accessEnabled enabled (.mrsFpsr b), fun f hf => ?_, fun hp => ?_⟩
  · rw [readX_after_mrs _ hb, readX_after_mrs _ ha, field_readFpsr hf, field_readFpsr (config ▸ hf), fpsr]
  · rw [readX_after_mrs _ hb, readX_after_mrs _ ha, State.readFpsr, State.readFpsr, fpsr, config]
    exact readFpsrWith_draw_irrelevant hp ..

end Sys2Proof.Machine
end

section
/-! PROOF. What no step changes: the implementation parameters and the program text (R45, R53, R113). -/

namespace Sys2Proof.Machine

/-- Neither a reset nor a change of inputs touches a parameter or the program text. -/
theorem applyAction_keeps_config_and_text (a : EnvAction) (s : State) :
    (s.applyAction a).config = s.config ∧ (s.applyAction a).mem = s.mem := by
  cases a with
  | reset k d => exact ⟨rfl, rfl⟩
  | changeInputs i p => exact ⟨rfl, rfl⟩

/-- Whoever moves, a step keeps the parameters and the program text. -/
theorem step_keeps_config_and_text {s u : State} (h : step s = .next u) : u.config = s.config ∧ u.mem = s.mem := by
  rcases step_next h with ⟨a, q, -, rfl⟩ | ⟨p, i, hrun, hx⟩ | ⟨p, st, q, hrun, -, -, -, rfl⟩
  · exact applyAction_keeps_config_and_text a (s.setTurns q)
  · obtain ⟨ts, rfl⟩ := exists_setTurns_of_peTurn hrun.1
    obtain ⟨hmem, hconfig, -⟩ := exec_keeps_text_and_config hx
    exact ⟨hconfig, hmem⟩
  · obtain ⟨ts, rfl⟩ := exists_setTurns_of_peTurn hrun.1
    exact ⟨completeSupplied_config .., completeSupplied_mem ..⟩

/-- Settles O34: by the three ways a step answers a next state. -/
theorem parametersAndTextNeverChange : Obligations.ParametersAndTextNeverChange := by
  intro s u h
  obtain ⟨hconfig, hmem⟩ := step_keeps_config_and_text h
  exact ⟨hconfig, hmem, fun a => by rw [hmem]⟩

end Sys2Proof.Machine
end

section
/-! PROOF. The encoding: a word decodes to an instruction exactly where it is that instruction's word, which R55's fields and its
two masks say alike (R54 to R58). -/

namespace Sys2Proof

/-- A word is its fields, in R55's order. -/
theorem append_fields (w : InstrWord) :
    fixedField w ++ dirField w ++ op0HighField w ++ o0Field w ++ op1Field w ++ crnField w ++ crmField w ++ op2Field w
      ++ rtField w = w := by
  simp only [fixedField, dirField, op0HighField, o0Field, op1Field, crnField, crmField, op2Field, rtField,
    BitVec.extractLsb'_append_extractLsb'_eq_extractLsb', BitVec.extractLsb'_eq_self]

/-- The five parts of FPSR's selector (R54). -/
theorem selectsFpsr_iff (w : InstrWord) :
    selectsFpsr w = true ↔
      o0Field w = 0b1 ∧ op1Field w = 0b011 ∧ crnField w = 0b0100 ∧ crmField w = 0b0100 ∧ op2Field w = 0b001 := by
  simp [selectsFpsr, and_assoc]

/-- The choice by the direction bit answers an instruction exactly where the bit and the operand are its own (R56, R57). -/
theorem ite_dir_eq_ok_iff (d : BitVec 1) (t : RegNum) (i : Instr) :
    (if d == 0b1 then (.ok (.mrsFpsr t) : Except DecodeReject Instr) else .ok (.msrFpsr t)) = .ok i
      ↔ d = i.dirBit ∧ t = i.rt := by
  obtain rfl | rfl := BitVec.eq_zero_or_eq_one d <;> cases i <;> simp [Instr.dirBit, Instr.rt]

/-- A word decodes to an instruction exactly where every field is the instruction's (R54 to R58). -/
theorem decodeWord_eq_ok_iff_fields (w : InstrWord) (i : Instr) :
    decodeWord w = .ok i ↔
      fixedField w = 0b1101010100 ∧ op0HighField w = 0b1 ∧ dirField w = i.dirBit ∧ selectsFpsr w = true
        ∧ rtField w = i.rt := by
  rw [decodeWord]
  by_cases fixed : fixedField w = 0b1101010100#10
  · by_cases high : op0HighField w = 0b1#1
    · by_cases selector : selectsFpsr w = true
      · simpa [fixed, high, selector] using ite_dir_eq_ok_iff (dirField w) (rtField w) i
      · simp [fixed, high, selector]
    · simp [high]
  · simp [fixed]

/-- A word decodes to an instruction exactly where it is the instruction's word (R55). -/
theorem decodeWord_eq_ok_iff (w : InstrWord) (i : Instr) : decodeWord w = .ok i ↔ encodeWord i = w := by
  rw [decodeWord_eq_ok_iff_fields]
  constructor
  · rintro ⟨fixed, high, dir, selector, rt⟩
    obtain ⟨o0, op1, crn, crm, op2⟩ := (selectsFpsr_iff w).mp selector
    rw [← append_fields w, fixed, high, dir, o0, op1, crn, crm, op2, rt]
    rfl
  · rintro rfl
    cases i with
    | mrsFpsr t => exact Laws.EncodedFields.mrsFpsr t
    | msrFpsr t => exact Laws.EncodedFields.msrFpsr t

/-- Settles O2: an instruction's bytes are its word's, and its word decodes to it. -/
theorem decodeOfEncode : Obligations.DecodeOfEncode := by
  intro i rest
  rw [encode, decode_bytesOfWord, (decodeWord_eq_ok_iff _ i).mpr rfl]
  rfl

/-- Settles O3: a decoded word is the instruction's word. -/
theorem encodeOfDecode : Obligations.EncodeOfDecode :=
  fun w i => (decodeWord_eq_ok_iff w i).mp

/-- The mask leaves out the operand, bits 4:0, and nothing else, so a word is its masked bits and its operand (R55). -/
theorem eq_iff_masked_and_rtField (v w : InstrWord) :
    v = w ↔ w &&& 0xFFFFFFE0 = v &&& 0xFFFFFFE0 ∧ rtField w = rtField v := by
  constructor
  · rintro rfl
    exact ⟨rfl, rfl⟩
  · rintro ⟨masked, operand⟩
    have mask_bits : ∀ n < 32, (0xFFFFFFE0 : InstrWord).getLsbD n = decide (5 ≤ n) := by decide
    refine BitVec.eq_of_getLsbD_eq fun n hn => ?_
    by_cases h5 : n < 5
    · have same : (rtField w).getLsbD n = (rtField v).getLsbD n := by rw [operand]
      simpa [rtField, h5] using same.symm
    · have same : (w &&& 0xFFFFFFE0).getLsbD n = (v &&& 0xFFFFFFE0).getLsbD n := by rw [masked]
      rw [BitVec.getLsbD_and, BitVec.getLsbD_and, mask_bits n hn] at same
      simpa [Nat.le_of_not_lt h5] using same.symm

/-- R55's match pattern of an instruction: its word with the operand's bits 0. -/
def Instr.pattern : Instr → InstrWord
  | .mrsFpsr _ => 0xD53B4420
  | .msrFpsr _ => 0xD51B4420

/-- Under the mask an instruction's word is its pattern. -/
theorem encodeWord_masked (i : Instr) : encodeWord i &&& 0xFFFFFFE0 = i.pattern := by
  cases i with
  | mrsFpsr t => revert t; decide
  | msrFpsr t => revert t; decide

/-- The operand field of an instruction's word is its operand. -/
theorem rtField_encodeWord (i : Instr) : rtField (encodeWord i) = i.rt := by
  obtain ⟨-, -, -, -, rt⟩ := (decodeWord_eq_ok_iff_fields _ i).mp ((decodeWord_eq_ok_iff _ i).mpr rfl)
  exact rt

/-- A word decodes to an instruction exactly where it matches the instruction's pattern and holds its operand (R55). -/
theorem decodeWord_eq_ok_iff_masked (w : InstrWord) (i : Instr) :
    decodeWord w = .ok i ↔ w &&& 0xFFFFFFE0 = i.pattern ∧ i.rt = rtField w := by
  rw [decodeWord_eq_ok_iff, eq_iff_masked_and_rtField, encodeWord_masked, rtField_encodeWord, eq_comm (a := i.rt)]

/-- Settles O4: each instruction by its pattern and its operand; a word that matches either pattern decodes, with its own bits 4:0
as the operand. -/
theorem decodeIsMaskAndMatch : Obligations.DecodeIsMaskAndMatch := by
  intro w
  have mrs := fun t => decodeWord_eq_ok_iff_masked w (.mrsFpsr t)
  have msr := fun t => decodeWord_eq_ok_iff_masked w (.msrFpsr t)
  refine ⟨mrs, msr, ?_⟩
  constructor
  · rintro ⟨e, he⟩
    constructor
    · intro hm
      exact absurd (he.symm.trans ((mrs _).mpr ⟨hm, rfl⟩)) nofun
    · intro hm
      exact absurd (he.symm.trans ((msr _).mpr ⟨hm, rfl⟩)) nofun
  · rintro ⟨not_mrs, not_msr⟩
    cases h : decodeWord w with
    | error e => exact ⟨e, rfl⟩
    | ok i =>
      cases i with
      | mrsFpsr t =>
        obtain ⟨matched, -⟩ := (mrs t).mp h
        exact absurd matched not_mrs
      | msrFpsr t =>
        obtain ⟨matched, -⟩ := (msr t).mp h
        exact absurd matched not_msr

/-- Settles O1: sixteen fixed words, evaluated. -/
theorem specWordsDecode : Obligations.SpecWordsDecode := by
  unfold Obligations.SpecWordsDecode
  decide

end Sys2Proof
end

section
/-! PROOF. MSR completes whatever the value and the FPCR trap enables (R59, R92). -/

namespace Sys2Proof.Machine

/-- The access check does not look at the FPCR trap enables (R65, R107). -/
theorem accessEnabled_setFpcr {s : State} (f : FPCR) :
    (s.setInputs { s.inputs with fpcr := f }).accessEnabled ↔ s.accessEnabled :=
  Iff.rfl

/-- Settles O15: neither the register written nor the trap enables bear on the check, and MSR stores what the register reads. -/
theorem msrCompletesForEveryValue : Obligations.MsrCompletesForEveryValue := by
  intro t s v f hs ht
  have written : (s.writeX t v).accessEnabled :=
    (accessEnabled_congr (s.writeX_config t v) (s.writeX_pstate t v) (s.writeX_inputs t v)).mpr hs
  have enabled : ((s.writeX t v).setInputs { s.inputs with fpcr := f }).accessEnabled := by
    rw [← s.writeX_inputs t v]
    exact (accessEnabled_setFpcr f).mpr written
  have value : (s.writeX t v).readX t = v := by rw [State.readX_writeX, if_pos ⟨rfl, ht⟩]
  refine ⟨_, exec_of_accessEnabled enabled (.msrFpsr t), value, ?_⟩
  rw [pc_after_act, State.setInputs_pc, State.writeX_pc]

end Sys2Proof.Machine
end

section
/-! PROOF. The outcome of an access at each Exception level, arm by arm (R66 to R70). -/

namespace Sys2Proof.Machine

/-! ### The access by the outcome of the check -/

theorem exec_of_check_trap {s : State} {t : TrapTarget} {ec : BitVec 6} (h : s.checkAccess = .trap t ec) (i : Instr) :
    exec i s = s.systemAccessTrap t ec :=
  (exec_eq_accessFpsr i s).trans (accessFpsr_trap h)

theorem exec_of_check_undef {s : State} (h : s.checkAccess = .undef) (i : Instr) :
    exec i s = .fault (.undefined s.pc) :=
  (exec_eq_accessFpsr i s).trans (accessFpsr_undef h)

/-- An allowed access completes. -/
theorem completes_of_check_allow {s : State} (h : s.checkAccess = .allow) (i : Instr) : Completes i s := by
  obtain ⟨-, -, hpstate, -, hexc, -⟩ := act_frame i s
  exact ⟨_, (exec_eq_accessFpsr i s).trans (accessFpsr_allow h), pc_after_act i s, hpstate, hexc⟩

/-! ### The arms below EL3 -/

/-- The arms of R66 to R68 between the first one and the EL3 control: the trap they decide, none where all are passed. -/
def Inputs.lowerArms (i : Inputs) : EL → Option AccessOutcome
  | .el0 =>
    if i.el1TrapsEL0 then some (if i.tgeRoutes then .trap .el2 0x00 else .trap .el1 0x07)
    else if i.el2TrapsEL0 then some (.trap .el2 0x07) else none
  | .el1 =>
    if i.el1TrapsEL1 then some (.trap .el1 0x07)
    else if i.el2TrapsEL1 then some (.trap .el2 0x07) else none
  | .el2 => if i.el2TrapsEL2 then some (.trap .el2 0x07) else none
  | .el3 => none

/-- `FPEN` has bit 0 clear exactly where it is '00' or '10' (R10). -/
theorem matchesX0_iff (f : BitVec 2) : matchesX0 f = true ↔ f = 0b00 ∨ f = 0b10 := by
  revert f; decide

/-- Below EL3 the check is its first arm, then the arms that trap to EL1 or EL2, then the EL3 control (R66 to R68). -/
theorem checkFpsrAccess_eq_arms {el : EL} (h : el ≠ .el3) (c : Config) (i : Inputs) :
    checkFpsrAccess c el i =
      if debugUndef c i then .undef else (i.lowerArms el).getD (checkEL3Control c i) := by
  have getD_ite : ∀ (p : Prop) [Decidable p] (o : AccessOutcome) (rest : Option AccessOutcome) (d : AccessOutcome),
      (if p then some o else rest).getD d = if p then o else rest.getD d := by
    intro p _ o rest d; split <;> rfl
  cases el with
  | el0 =>
    have host : (i.el2Enabled && (i.hcrEL2E2H && i.hcrEL2TGE)) = decide i.hostEL0 := by simp [Inputs.hostEL0]
    simp only [checkFpsrAccess, checkEL0, host, Inputs.lowerArms, getD_ite, Option.getD_none, ite_or, Bool.and_eq_true,
      Bool.not_eq_true', decide_eq_true_eq, decide_eq_false_iff_not, bne_iff_ne, matchesX0_iff, and_assoc]
  | el1 =>
    simp only [checkFpsrAccess, checkEL1, Inputs.lowerArms, getD_ite, Option.getD_none, ite_or, Bool.and_eq_true,
      Bool.not_eq_true', matchesX0_iff, and_assoc]
  | el2 =>
    simp only [checkFpsrAccess, checkEL2, Inputs.lowerArms, getD_ite, Option.getD_none, ite_or, Bool.and_eq_true,
      Bool.not_eq_true', matchesX0_iff]
  | el3 => exact absurd rfl h

/-- The first arm is R66's condition (1). -/
theorem debugUndef_iff (s : State) : debugUndef s.config s.inputs = true ↔ s.debugArm := by
  simp [debugUndef, and_assoc]

/-- The EL3 control: UNDEFINED halted with `EDSCR.SDD` = 1, else a trap, where EL3 traps; else the access (R66 to R68). -/
theorem checkEL3Control_eq (s : State) :
    checkEL3Control s.config s.inputs =
      if s.el3Traps then if s.inputs.haltedSDD then .undef else .trap .el3 0x07 else .allow := by
  simp only [checkEL3Control, Bool.and_eq_true]

section
variable {s : State} (below : s.pstate.el ≠ .el3)
include below

/-- The first arm decides before every other (R66 to R68). -/
theorem exec_of_debugArm (hd : s.debugArm) (i : Instr) : exec i s = .fault (.undefined s.pc) :=
  exec_of_check_undef (by rw [State.checkAccess, checkFpsrAccess_eq_arms below, if_pos ((debugUndef_iff s).mpr hd)]) i

variable (hd : ¬ s.debugArm)
include hd

theorem checkAccess_of_not_debugArm :
    s.checkAccess = (s.inputs.lowerArms s.pstate.el).getD (checkEL3Control s.config s.inputs) := by
  rw [State.checkAccess, checkFpsrAccess_eq_arms below, if_neg (mt (debugUndef_iff s).mp hd)]

/-- An arm that traps to EL1 or EL2 decides before the EL3 control. -/
theorem exec_of_lowerArms {t : TrapTarget} {ec : BitVec 6}
    (hl : s.inputs.lowerArms s.pstate.el = some (.trap t ec)) (i : Instr) : exec i s = s.systemAccessTrap t ec :=
  exec_of_check_trap (by rw [checkAccess_of_not_debugArm below hd, hl, Option.getD_some]) i

variable (hl : s.inputs.lowerArms s.pstate.el = none)
include hl

/-- Past the earlier arms the EL3 control decides, in the same way at EL0, EL1 and EL2. -/
theorem checkAccess_of_lowerArms_passed :
    s.checkAccess = if s.el3Traps then if s.inputs.haltedSDD then .undef else .trap .el3 0x07 else .allow := by
  rw [checkAccess_of_not_debugArm below hd, hl, Option.getD_none, checkEL3Control_eq]

theorem exec_of_el3Traps_halted (h3 : s.el3Traps) (hh : s.inputs.haltedSDD) (i : Instr) :
    exec i s = .fault (.undefined s.pc) :=
  exec_of_check_undef (by rw [checkAccess_of_lowerArms_passed below hd hl, if_pos h3, if_pos hh]) i

theorem exec_of_el3Traps_not_halted (h3 : s.el3Traps) (hh : ¬ s.inputs.haltedSDD) (i : Instr) :
    exec i s = s.systemAccessTrap .el3 0x07 :=
  exec_of_check_trap (by rw [checkAccess_of_lowerArms_passed below hd hl, if_pos h3, if_neg hh]) i

theorem completes_of_not_el3Traps (h3 : ¬ s.el3Traps) (i : Instr) : Completes i s :=
  completes_of_check_allow (by rw [checkAccess_of_lowerArms_passed below hd hl, if_neg h3]) i

end

/-- Settles O17: the arms of the check at EL0, the EL3 control being the last. -/
theorem outcomeAtEL0 : Obligations.OutcomeAtEL0 := by
  intro i s hel
  have below : s.pstate.el ≠ .el3 := by rw [hel]; nofun
  have arms : s.inputs.lowerArms s.pstate.el = s.inputs.lowerArms .el0 := by rw [hel]
  have passed (h1 : ¬ s.inputs.el1TrapsEL0) (h2 : ¬ s.inputs.el2TrapsEL0) :
      s.inputs.lowerArms s.pstate.el = none := by rw [arms, Inputs.lowerArms, if_neg h1, if_neg h2]
  refine ⟨fun hd => exec_of_debugArm below hd i, fun hd h1 hr => ?_, fun hd h1 hr => ?_, fun hd h1 h2 => ?_,
    fun hd h1 h2 h3 hh => ?_, fun hd h1 h2 h3 hh => ?_, fun hd h1 h2 h3 => ?_⟩
  · exact exec_of_lowerArms below hd (by rw [arms, Inputs.lowerArms, if_pos h1, if_pos hr]) i
  · exact exec_of_lowerArms below hd (by rw [arms, Inputs.lowerArms, if_pos h1, if_neg hr]) i
  · exact exec_of_lowerArms below hd (by rw [arms, Inputs.lowerArms, if_neg h1, if_pos h2]) i
  · exact exec_of_el3Traps_halted below hd (passed h1 h2) h3 hh i
  · exact exec_of_el3Traps_not_halted below hd (passed h1 h2) h3 hh i
  · exact completes_of_not_el3Traps below hd (passed h1 h2) h3 i

/-- Settles O18: the arms of the check at EL1, the EL3 control being the last. -/
theorem outcomeAtEL1 : Obligations.OutcomeAtEL1 := by
  intro i s hel
  have below : s.pstate.el ≠ .el3 := by rw [hel]; nofun
  have arms : s.inputs.lowerArms s.pstate.el = s.inputs.lowerArms .el1 := by rw [hel]
  have passed (h1 : ¬ s.inputs.el1TrapsEL1) (h2 : ¬ s.inputs.el2TrapsEL1) :
      s.inputs.lowerArms s.pstate.el = none := by rw [arms, Inputs.lowerArms, if_neg h1, if_neg h2]
  refine ⟨fun hd => exec_of_debugArm below hd i, fun hd h1 => ?_, fun hd h1 h2 => ?_,
    fun hd h1 h2 h3 hh => ?_, fun hd h1 h2 h3 hh => ?_, fun hd h1 h2 h3 => ?_⟩
  · exact exec_of_lowerArms below hd (by rw [arms, Inputs.lowerArms, if_pos h1]) i
  · exact exec_of_lowerArms below hd (by rw [arms, Inputs.lowerArms, if_neg h1, if_pos h2]) i
  · exact exec_of_el3Traps_halted below hd (passed h1 h2) h3 hh i
  · exact exec_of_el3Traps_not_halted below hd (passed h1 h2) h3 hh i
  · exact completes_of_not_el3Traps below hd (passed h1 h2) h3 i

/-- Settles O19: the arms of the check at EL2, the EL3 control being the last. -/
theorem outcomeAtEL2 : Obligations.OutcomeAtEL2 := by
  intro i s hel
  have below : s.pstate.el ≠ .el3 := by rw [hel]; nofun
  have arms : s.inputs.lowerArms s.pstate.el = s.inputs.lowerArms .el2 := by rw [hel]
  have passed (h2 : ¬ s.inputs.el2TrapsEL2) : s.inputs.lowerArms s.pstate.el = none := by
    rw [arms, Inputs.lowerArms, if_neg h2]
  refine ⟨fun hd => exec_of_debugArm below hd i, fun hd h2 => ?_, fun hd h2 h3 hh => ?_, fun hd h2 h3 hh => ?_, fun hd h2 h3 => ?_⟩
  · exact exec_of_lowerArms below hd (by rw [arms, Inputs.lowerArms, if_pos h2]) i
  · exact exec_of_el3Traps_halted below hd (passed h2) h3 hh i
  · exact exec_of_el3Traps_not_halted below hd (passed h2) h3 hh i
  · exact completes_of_not_el3Traps below hd (passed h2) h3 i

/-- Settles O20: at EL3 the check is the EL3 control's bit alone. -/
theorem outcomeAtEL3 : Obligations.OutcomeAtEL3 := by
  intro i s hel
  have check : s.checkAccess = checkEL3 s.inputs := by rw [State.checkAccess, hel, checkFpsrAccess]
  constructor
  · intro ht
    exact exec_of_check_trap (by rw [check, checkEL3, if_pos ht]) i
  · intro ht
    exact completes_of_check_allow (by rw [check, checkEL3, ht]; rfl) i

/-! ### What the check can answer (R70) -/

/-- A trap of an arm before the EL3 control: its code and its target (R66 to R68). -/
theorem eq_trap_of_lowerArms {i : Inputs} {el : EL} {o : AccessOutcome} (h : i.lowerArms el = some o) :
    ∃ t ec, o = .trap t ec ∧ t ≠ .el3 ∧ (ec = 0x07 ∨ (ec = 0x00 ∧ el = .el0 ∧ t = .el2))
      ∧ el.level ≤ t.toEL.level ∧ (t = .el2 → i.el2Enabled = true ∨ el = .el2) := by
  unfold Inputs.lowerArms at h
  split at h
  case h_1 =>
    split_ifs at h with h1 hr h2
    all_goals cases h
    · exact ⟨.el2, 0x00, rfl, nofun, .inr ⟨rfl, rfl, rfl⟩, by decide, fun _ => .inl hr.1⟩
    · exact ⟨.el1, 0x07, rfl, nofun, .inl rfl, by decide, nofun⟩
    · exact ⟨.el2, 0x07, rfl, nofun, .inl rfl, by decide, fun _ => .inl (by tauto)⟩
  case h_2 =>
    split_ifs at h with h1 h2
    all_goals cases h
    · exact ⟨.el1, 0x07, rfl, nofun, .inl rfl, by decide, nofun⟩
    · exact ⟨.el2, 0x07, rfl, nofun, .inl rfl, by decide, fun _ => .inl (by tauto)⟩
  case h_3 =>
    split_ifs at h
    cases h
    exact ⟨.el2, 0x07, rfl, nofun, .inl rfl, by decide, fun _ => .inr rfl⟩
  case h_4 => cases h

/-- Where the EL3 control traps, and to where. -/
theorem checkEL3Control_eq_trap {c : Config} {i : Inputs} {t : TrapTarget} {ec : BitVec 6}
    (h : checkEL3Control c i = .trap t ec) : t = .el3 ∧ ec = 0x07 := by
  unfold checkEL3Control at h
  split_ifs at h
  cases h
  exact ⟨rfl, rfl⟩

theorem checkEL3Control_eq_undef_iff {c : Config} {i : Inputs} :
    checkEL3Control c i = .undef ↔ c.haveEL3 = true ∧ i.cptrEL3TFP = true ∧ i.haltedSDD := by
  simp only [checkEL3Control, Bool.and_eq_true]
  split_ifs with h3 hh
  · obtain ⟨h, ht⟩ := h3
    exact iff_of_true rfl ⟨h, ht, hh⟩
  · exact iff_of_false nofun fun ⟨_, _, h⟩ => hh h
  · exact iff_of_false nofun fun ⟨h, ht, _⟩ => h3 ⟨h, ht⟩

/-- The first arm holds only where the EL3 control would answer UNDEFINED too. -/
theorem checkEL3Control_of_debugUndef {c : Config} {i : Inputs} (h : debugUndef c i = true) :
    checkEL3Control c i = .undef := by
  simp only [debugUndef, Bool.and_eq_true] at h
  rw [checkEL3Control_eq_undef_iff]
  tauto

/-- A trap comes from an arm before the EL3 control, or goes to EL3 with code 0x07. -/
theorem checkFpsrAccess_trap_cases {c : Config} {el : EL} {i : Inputs} {t : TrapTarget} {ec : BitVec 6}
    (h : checkFpsrAccess c el i = .trap t ec) :
    i.lowerArms el = some (.trap t ec) ∨ (t = .el3 ∧ ec = 0x07) := by
  by_cases hel : el = .el3
  · subst hel
    simp only [checkFpsrAccess, checkEL3] at h
    split_ifs at h
    cases h
    exact .inr ⟨rfl, rfl⟩
  · rw [checkFpsrAccess_eq_arms hel] at h
    split_ifs at h
    cases hl : i.lowerArms el with
    | some o => rw [hl] at h; exact .inl (congrArg some h)
    | none => rw [hl] at h; exact .inr (checkEL3Control_eq_trap h)

/-- UNDEFINED comes from below EL3, where the EL3 control answers it (R66 to R69). -/
theorem checkEL3Control_of_checkFpsrAccess_undef {c : Config} {el : EL} {i : Inputs}
    (h : checkFpsrAccess c el i = .undef) : el ≠ .el3 ∧ checkEL3Control c i = .undef := by
  have below : el ≠ .el3 := by
    rintro rfl
    simp only [checkFpsrAccess, checkEL3] at h
    split_ifs at h
  refine ⟨below, ?_⟩
  rw [checkFpsrAccess_eq_arms below] at h
  split_ifs at h with hd
  · exact checkEL3Control_of_debugUndef hd
  · cases hl : i.lowerArms el with
    | none => rwa [hl] at h
    | some o =>
      obtain ⟨t, ec, rfl, -⟩ := eq_trap_of_lowerArms hl
      rw [hl] at h
      cases h

/-- With the parameter false the first arm never decides. -/
theorem checkFpsrAccess_of_prio_false {el : EL} (below : el ≠ .el3) (c : Config) (i : Inputs) :
    checkFpsrAccess { c with impDefEL3TrapPrioritySDD := false } el i
      = (i.lowerArms el).getD (checkEL3Control c i) := by
  have passed : debugUndef { c with impDefEL3TrapPrioritySDD := false } i = false := by simp [debugUndef]
  rw [checkFpsrAccess_eq_arms below, passed]
  rfl

/-- Settles O21: each clause from the arm that gave the outcome; the parameter stands in the first arm alone, which takes an
UNDEFINED outcome of the EL3 control before the arms that trap to EL1 or EL2. -/
theorem checkConsequences : Obligations.CheckConsequences := by
  intro c el n
  refine ⟨fun t ec h => ?_, fun h => ?_, ?_⟩
  · have el3 : t = .el3 → c.haveEL3 = true ∨ el = .el3 := fun e => haveEL3_of_checkFpsrAccess_trap (e ▸ h)
    rcases checkFpsrAccess_trap_cases h with lower | ⟨rfl, rfl⟩
    · obtain ⟨_, _, ⟨rfl, rfl⟩, -, code, level, el2⟩ := eq_trap_of_lowerArms lower
      exact ⟨code, level, el2, el3⟩
    · exact ⟨.inl rfl, by cases el <;> decide, nofun, el3⟩
  · obtain ⟨below, control⟩ := checkEL3Control_of_checkFpsrAccess_undef h
    obtain ⟨h3, htfp, hhalted, hsdd⟩ := checkEL3Control_eq_undef_iff.mp control
    exact ⟨hhalted, h3, hsdd, htfp, below⟩
  · rintro _ _ rfl rfl differ
    have below : el ≠ .el3 := by
      rintro rfl
      exact differ rfl
    rw [checkFpsrAccess_of_prio_false below, checkFpsrAccess_eq_arms below] at differ ⊢
    cases hd : debugUndef { c with impDefEL3TrapPrioritySDD := true } n with
    | false =>
      rw [hd] at differ
      exact absurd rfl differ
    | true =>
      have control : checkEL3Control c n = .undef :=
        checkEL3Control_of_debugUndef (c := { c with impDefEL3TrapPrioritySDD := true }) hd
      obtain ⟨h3, htfp, hhalted, hsdd⟩ := checkEL3Control_eq_undef_iff.mp control
      rw [hd, control] at differ
      cases hl : n.lowerArms el with
      | none =>
        rw [hl] at differ
        exact absurd rfl differ
      | some o =>
        obtain ⟨t, ec, rfl, target, -⟩ := eq_trap_of_lowerArms hl
        exact ⟨rfl, hhalted, h3, hsdd, htfp, t, ec, rfl, target⟩

end Sys2Proof.Machine
end

section
/-! PROOF. The two accesses themselves: what each reads, writes and leaves, and the outcome of a refused one (R63, R64, R65, R89). -/

namespace Sys2Proof.Machine

/-- R55's pattern with an operand in bits 4:0 decodes to that instruction. -/
theorem decodeWord_pattern (i : Instr) : decodeWord (i.pattern ||| i.rt.setWidth 32) = .ok i := by
  rw [decodeWord_eq_ok_iff]
  cases i with
  | mrsFpsr t => revert t; decide
  | msrFpsr t => revert t; decide

/-! ### What a direct read returns in the RES0 bits (R28) -/

theorem readFpsrWith_razWi {c : Config} (h : c.res0Policy = .razWi) (draw w : Word) :
    readFpsrWith c draw w &&& res0Mask c = 0 := by
  simp [readFpsrWith, h, res0Mask_eq_not, BitVec.and_assoc]

theorem readFpsrWith_stored {c : Config} (h : c.res0Policy = .stored) (draw w : Word) :
    readFpsrWith c draw w = w := by
  simp only [readFpsrWith, h]

/-- Under ANY no bit reads 1 that is stored as 0. -/
theorem readFpsrWith_any {c : Config} (h : c.res0Policy = .any) (draw w : Word) :
    readFpsrWith c draw w &&& ~~~ w = 0 := by
  simp only [readFpsrWith, h]
  refine BitVec.eq_of_getLsbD_eq fun i hi => ?_
  cases hw : w.getLsbD i <;> simp [hw]

/-! ### A completed access -/

/-- Every register after MRS: its own holds what the read returned, unless it is XZR (R36, R63). -/
theorem readX_after_mrs_eq (s : State) (t r : RegNum) :
    (Instr.act (.mrsFpsr t) s).advancePc.readX r = if r = t ∧ t ≠ 31 then s.readFpsr else s.readX r :=
  (State.readX_congr (u := (Instr.act (.mrsFpsr t) s).advancePc) (s := s.writeX t s.readFpsr) rfl r).trans
    (s.readX_writeX t r s.readFpsr)

/-- After a completed access an MRS completes and returns the named fields of the FPSR the access left (R50, R51). -/
theorem mrs_after_act {s : State} (h : s.accessEnabled) (i : Instr) {r : RegNum} (hr : r ≠ 31) :
    ∃ w, exec (.mrsFpsr r) (Instr.act i s).advancePc = .next w
      ∧ ∀ f : FpsrField, f.present s.config = true →
          FpsrField.of (w.readX r) f = FpsrField.of (Instr.act i s).fpsr f := by
  obtain ⟨-, -, -, hconfig, -⟩ := act_frame i s
  refine ⟨_, exec_of_accessEnabled (accessEnabled_after_act h i) _, fun f hf => ?_⟩
  rw [readX_after_mrs _ hr, field_readFpsr (by rwa [State.advancePc_config, hconfig]), State.advancePc_fpsr]

/-- Settles O8: MRS leaves what the read returned in its register, which every policy bounds, and moves the pc and the draws. -/
theorem mrsReadsFpsr : Obligations.MrsReadsFpsr := by
  intro t s
  refine ⟨decodeWord_pattern (.mrsFpsr t), fun h => ?_, fun tgt ec ht => exec_of_check_trap ht _,
    fun hu => exec_of_check_undef hu _⟩
  obtain ⟨hmem, hpc, hpstate, hconfig, hexc, hsupplied, hturns⟩ := act_frame (.mrsFpsr t) s
  have fpsr : (Instr.act (.mrsFpsr t) s).fpsr = s.fpsr := State.moveFromFpsr_fpsr t s
  refine ⟨_, s.readFpsr, exec_of_accessEnabled h _, fun f hf => field_readFpsr hf,
    fun hp => readFpsrWith_razWi hp _ _, fun hp => readFpsrWith_stored hp _ _, fun hp => readFpsrWith_any hp _ _,
    readX_after_mrs_eq s t, pc_after_act _ s, fpsr, hpstate, State.moveFromFpsr_inputs t s, hexc, hconfig, hsupplied,
    hturns, fun a => congrArg (Memory.read a) hmem, fun r hr => ?_⟩
  obtain ⟨w, hw, fields⟩ := mrs_after_act h (.mrsFpsr t) hr
  exact ⟨w, hw, fun f hf => by rw [fields f hf, fpsr, field_readFpsr hf]⟩

/-- Settles O9: MSR stores its register in FPSR and moves the pc, and the next MRS reads the fields of what is stored. -/
theorem msrWritesFpsr : Obligations.MsrWritesFpsr := by
  intro t s
  refine ⟨decodeWord_pattern (.msrFpsr t), fun h => ?_, fun tgt ec ht => exec_of_check_trap ht _,
    fun hu => exec_of_check_undef hu _⟩
  have zero : t = 31 → s.readX t = 0 := by
    rintro rfl
    exact s.readX_xzr
  exact ⟨_, exec_of_accessEnabled h _, rfl, zero, fun f => rfl, State.readX_congr rfl, rfl, rfl, rfl, rfl, rfl, rfl, rfl,
    fun a => rfl, fun r hr => mrs_after_act h (.msrFpsr t) hr⟩

/-! ### The frame over every next state -/

/-- An access answers a next state in two ways: enabled and completed, or refused with the trap taken. -/
theorem exec_next {i : Instr} {s u : State} (h : exec i s = .next u) :
    (s.accessEnabled ∧ u = (Instr.act i s).advancePc)
      ∨ ¬ s.accessEnabled ∧ ∃ t ec, s.checkAccess = .trap t ec ∧ s.config.trapEntry = .taken
          ∧ u = s.takeException t ec := by
  rw [exec_eq_accessFpsr] at h
  rcases accessFpsr_next h with ⟨ha, hu⟩ | ⟨t, ec, ht, hu⟩
  · exact .inl ⟨(checkAccess_eq_allow_iff s).mp ha, hu⟩
  · refine .inr ⟨fun he => ?_, t, ec, ht, hu⟩
    exact absurd ((checkAccess_eq_allow_iff s).mpr he) (by rw [ht]; nofun)

/-- What each exception bank holds after one is written. -/
theorem ExcRegs.get_set (e : ExcRegs) (t b : TrapTarget) (v : ExcBank) :
    (e.set t v).get b = if b = t then v else e.get b := by
  cases t <;> cases b <;> rfl

/-- A trap taken writes the bank of the level it enters alone (R103). -/
theorem takeException_exc_get {t b : TrapTarget} {ec : BitVec 6} {s : State}
    (h : (s.takeException t ec).pstate.el ≠ b.toEL) : (s.takeException t ec).exc.get b = s.exc.get b := by
  have other : b ≠ s.inputs.routeTrap t := fun e => h (congrArg TrapTarget.toEL e.symm)
  rw [State.takeException_exc, ExcRegs.get_set, if_neg other]

/-- The general registers but the destination of an MRS stay, on every path to a next state. -/
theorem exec_next_readX {i : Instr} {s u : State} (h : exec i s = .next u) {r : RegNum}
    (hr : ∀ t, i = .mrsFpsr t → r ≠ t) : u.readX r = s.readX r := by
  rcases exec_next h with ⟨-, rfl⟩ | ⟨-, t, ec, -, -, rfl⟩
  · cases i with
    | mrsFpsr t => rw [readX_after_mrs_eq, if_neg fun e => hr t rfl e.1]
    | msrFpsr t => exact State.readX_congr rfl r
  · exact State.readX_congr rfl r

/-- Settles O10: a next state is the completed access or the trap taken, and each leaves what it does not name. -/
theorem frameOfFpsrAccesses : Obligations.FrameOfFpsrAccesses := by
  intro t s u
  refine ⟨fun h => ⟨?_, fun r hr => exec_next_readX h (by rintro _ ⟨⟩; exact hr)⟩,
    fun h r => exec_next_readX h nofun, fun i h => ?_⟩
  · rcases exec_next h with ⟨-, rfl⟩ | ⟨-, _, _, -, -, rfl⟩
    · exact State.moveFromFpsr_fpsr t s
    · rfl
  · obtain ⟨hmem, hconfig, hsupplied, hturns, hinputs⟩ := exec_keeps_text_and_config h
    refine ⟨fun a => congrArg (Memory.read a) hmem, hinputs, hconfig, hsupplied, hturns, ?_⟩
    rcases exec_next h with ⟨enabled, rfl⟩ | ⟨refused, tgt, ec, -, -, rfl⟩
    · obtain ⟨-, -, hpstate, -, hexc, -⟩ := act_frame i s
      rw [State.advancePc_pstate, State.advancePc_exc, hpstate, hexc]
      exact ⟨rfl, rfl, rfl, rfl, fun _ => ⟨rfl, rfl⟩, fun refused => absurd enabled refused⟩
    · exact ⟨rfl, rfl, rfl, rfl, fun enabled => absurd enabled refused,
        fun _ => ⟨rfl, State.readX_congr rfl, fun b => takeException_exc_get⟩⟩

/-! ### A refused access -/

/-- A trap sees neither FPSR nor the general registers: taken, it leaves them; terminal, it does not report them (R89, R95). -/
theorem systemAccessTrap_blind (t : TrapTarget) (ec : BitVec 6) (s : State) (w : Word) (x : Vector Word 31) :
    (∀ u, s.systemAccessTrap t ec = .next u →
        ((s.setFpsr w).setX x).systemAccessTrap t ec = .next ((u.setFpsr w).setX x))
      ∧ ∀ r, s.systemAccessTrap t ec = .fault r → ((s.setFpsr w).setX x).systemAccessTrap t ec = .fault r := by
  simp only [State.systemAccessTrap, State.setX_config, State.setFpsr_config]
  cases s.config.trapEntry with
  | terminal => exact ⟨fun _ h => (nomatch h), fun _ h => h⟩
  | taken =>
    refine ⟨fun u h => ?_, fun _ h => nomatch h⟩
    obtain rfl := Host.Outcome.next.inj h
    rfl

/-- Settles O22: a refused access is the outcome of the check, which sees neither the instruction, nor FPSR, nor a register. -/
theorem refusedAccessIsBlind : Obligations.RefusedAccessIsBlind := by
  intro i j s h
  refine ⟨exec_eq_exec_of_not_accessEnabled h i j, fun w x => ⟨mt (accessEnabled_congr rfl rfl rfl).mp h, ?_⟩⟩
  have check : ((s.setFpsr w).setX x).checkAccess = s.checkAccess := rfl
  cases e : s.checkAccess with
  | allow => exact absurd ((checkAccess_eq_allow_iff s).mp e) h
  | trap t ec =>
    rw [exec_of_check_trap e, exec_of_check_trap (check.trans e)]
    exact systemAccessTrap_blind t ec s w x
  | undef =>
    rw [exec_of_check_undef e, exec_of_check_undef (check.trans e)]
    exact ⟨fun _ h => (nomatch h), fun _ h => h⟩

end Sys2Proof.Machine
end

section
/-! PROOF. A change of inputs between two steps (R72, R113). -/

namespace Sys2Proof.Machine

/-- Settles O38: the step is the change of inputs, and the check reads the state it leaves. -/
theorem inputChangeIsSeenByNextStep : Obligations.InputChangeIsSeenByNextStep := by
  intro s n ps q hq
  exact ⟨_, step_of_environment hq, rfl, rfl, rfl, rfl, rfl, rfl, rfl, rfl, rfl, rfl, rfl⟩

end Sys2Proof.Machine
end

section
/-! PROOF. The implicit update of FPSR: which bit each event sets, what a trapped exception leaves, and who else writes FPSR
(R74 to R85, R88, R101). -/

namespace Sys2Proof.Machine

/-! ### The events of an instruction (R73, R83) -/

/-- An exception occurs in an instruction where it occurs in one of its lanes (R83). -/
theorem event_occurred_iff (st : SuppliedStep) (x : FPException) :
    st.event.occurred x = true ↔ ∃ e ∈ st.lanes, e.occurred x = true := by
  obtain ⟨io, dz, overflow, uf, ix, idn, -⟩ := ofLanes_eq_any st.lanes
  rw [← List.any_eq_true]
  cases x with
  | invalidOperation => exact Eq.congr_left io
  | divideByZero => exact Eq.congr_left dz
  | overflow => exact Eq.congr_left overflow
  | underflow => exact Eq.congr_left uf
  | inexact => exact Eq.congr_left ix
  | inputDenormal => exact Eq.congr_left idn

/-- An instruction saturates where one of its lanes does (R83). -/
theorem event_sat (st : SuppliedStep) : st.event.sat = st.lanes.any (·.sat) := by
  obtain ⟨-, -, -, -, -, -, sat⟩ := ofLanes_eq_any st.lanes
  exact sat

/-- The record of an instruction with one lane is that lane's. -/
theorem event_of_singleton {st : SuppliedStep} {e : EventRecord} (h : st.lanes = [e]) : st.event = e := by
  simp [SuppliedStep.event, h, EventRecord.ofLanes, EventRecord.join, EventRecord.none]

/-- An event record is its six exceptions and saturation. -/
theorem EventRecord.ext_occurred {a b : EventRecord} (hx : ∀ x, a.occurred x = b.occurred x) (hsat : a.sat = b.sat) :
    a = b := by
  cases a
  cases b
  congr
  exacts [hx .invalidOperation, hx .divideByZero, hx .overflow, hx .underflow, hx .inexact, hx .inputDenormal]

theorem EventRecord.anyException_eq_false_iff (e : EventRecord) :
    e.anyException = false ↔ ∀ x, e.occurred x = false := by
  constructor
  · intro h x
    simp only [EventRecord.anyException, Bool.or_eq_false_iff] at h
    cases x <;> simp [EventRecord.occurred, h]
  · intro h
    have io := h .invalidOperation
    have dz := h .divideByZero
    have overflow := h .overflow
    have uf := h .underflow
    have ix := h .inexact
    have idn := h .inputDenormal
    simp_all [EventRecord.anyException, EventRecord.occurred]

/-- Saturation is an Advanced SIMD integer operation's, which raises no floating-point exception (R73). -/
theorem EventRecord.anyException_of_sat {cls : InstrClass} {e : EventRecord} (h : e.agreesWith cls = true)
    (hs : e.sat = true) : e.anyException = false := by
  cases cls <;> simp_all [EventRecord.agreesWith, InstrClass.isFloatingPoint]

/-! ### The bits an instruction sets (R75 to R82) -/

section
variable (ev : EventRecord) (f : FPCR) (ftz : Bool)

/-- An exception sets its own cumulative bit where it occurs and is not trapped (R75 to R81). -/
theorem getLsbD_eventSet_field (x : FPException) :
    (eventSet ev f ftz).getLsbD x.field.bit = (ev.occurred x && !ev.trapped f ftz x) := by
  rw [getLsbD_eventSet]
  cases x <;> simp [FPException.field, FpsrField.bit, EventRecord.trapped, EventRecord.occurred, FPCR.enable,
    Bool.and_or_distrib_left, beq_eq_decide]

/-- Saturation sets QC, under no enable (R82). -/
theorem getLsbD_eventSet_qc : (eventSet ev f ftz).getLsbD 27 = ev.sat := by
  rw [getLsbD_eventSet]
  simp

/-- The bits an instruction sets: those of the exceptions that occur and are not trapped, and QC where it saturates. -/
theorem getLsbD_eventSet_iff (n : Nat) :
    (eventSet ev f ftz).getLsbD n = true ↔
      (∃ x : FPException, ev.occurred x = true ∧ ev.trapped f ftz x = false ∧ x.field.bit = n)
        ∨ ev.sat = true ∧ n = 27 := by
  constructor
  · intro h
    have named : n = 27 ∨ ∃ x : FPException, x.field.bit = n := by
      simp only [getLsbD_eventSet, Bool.or_eq_true, Bool.and_eq_true, decide_eq_true_eq] at h
      rcases h with (((((⟨-, rfl⟩ | ⟨-, rfl⟩) | ⟨-, rfl⟩) | ⟨-, rfl⟩) | ⟨-, rfl⟩) | ⟨-, rfl⟩) | ⟨-, rfl⟩
      · exact .inr ⟨.invalidOperation, rfl⟩
      · exact .inr ⟨.divideByZero, rfl⟩
      · exact .inr ⟨.overflow, rfl⟩
      · exact .inr ⟨.underflow, rfl⟩
      · exact .inr ⟨.inexact, rfl⟩
      · exact .inr ⟨.inputDenormal, rfl⟩
      · exact .inl rfl
    rcases named with rfl | ⟨x, rfl⟩
    · exact .inr ⟨by rwa [getLsbD_eventSet_qc] at h, rfl⟩
    · rw [getLsbD_eventSet_field, Bool.and_eq_true, Bool.not_eq_true'] at h
      obtain ⟨occurs, untrapped⟩ := h
      exact .inl ⟨x, occurs, untrapped, rfl⟩
  · rintro (⟨x, ho, ht, rfl⟩ | ⟨hs, rfl⟩)
    · simp [getLsbD_eventSet_field, ho, ht]
    · rwa [getLsbD_eventSet_qc]

/-- Only the bits of cumulative fields are set (R74). -/
theorem getLsbD_eventSet_of_not_cumulative {n : Nat} (h : ∀ g : FpsrField, g.cumulative = true → g.bit ≠ n) :
    (eventSet ev f ftz).getLsbD n = false := by
  rw [Bool.eq_false_iff]
  intro hn
  rcases (getLsbD_eventSet_iff ev f ftz n).mp hn with ⟨x, -, -, hx⟩ | ⟨-, hqc⟩
  · exact h x.field (by cases x <;> rfl) hx
  · exact h .qc rfl hqc.symm

/-- N, Z, C and V, bits 31:28, are not among them (R85). -/
theorem extractLsb'_updateFpsr (w : Word) : (updateFpsr ev f ftz w).extractLsb' 28 4 = w.extractLsb' 28 4 := by
  refine BitVec.eq_of_getLsbD_eq fun i hi => ?_
  have untouched : (eventSet ev f ftz).getLsbD (28 + i) = false :=
    getLsbD_eventSet_of_not_cumulative _ _ _ fun g hg => by
      have below : g.bit < 28 := by
        revert hg
        cases g <;> decide
      omega
  simp only [BitVec.getLsbD_extractLsb', getLsbD_updateFpsr, untouched, Bool.or_false]

/-- An instruction that raises no floating-point exception sets QC at most. -/
theorem getLsbD_eventSet_of_no_exception {ev : EventRecord} (h : ev.anyException = false) (n : Nat) :
    (eventSet ev f ftz).getLsbD n = (ev.sat && decide (n = 27)) := by
  rw [Bool.eq_iff_iff, getLsbD_eventSet_iff]
  simp [(EventRecord.anyException_eq_false_iff ev).mp h]

/-- An instruction in which nothing occurs leaves FPSR. -/
theorem updateFpsr_of_no_event {ev : EventRecord} (hx : ev.anyException = false) (hs : ev.sat = false) (w : Word) :
    updateFpsr ev f ftz w = w := by
  refine BitVec.eq_of_getLsbD_eq fun n _ => ?_
  rw [getLsbD_updateFpsr, getLsbD_eventSet_of_no_exception f ftz hx, hs, Bool.false_and, Bool.or_false]

/-- FPSR after a trapped exception, bit by bit (R81, R82). -/
theorem getLsbD_updateFpsrTrapped (draw w : Word) (n : Nat) :
    (updateFpsrTrapped ev f ftz draw w).getLsbD n =
      (w.getLsbD n || ((eventSet ev f ftz).getLsbD n && draw.getLsbD n) || (ev.sat && decide (n = 27))) := by
  simp only [updateFpsrTrapped, BitVec.getLsbD_or, BitVec.getLsbD_and, getLsbD_bitIf _ 27 n (by omega)]

end

/-! ### Whether an exception is trapped (R81, R101) -/

/-- The kinds a supplied step traps are the exceptions R81 traps. -/
theorem mem_trappedBy_iff {p : State} {st : SuppliedStep} {x : FPException} : x ∈ p.trappedBy st ↔ p.Traps st x := by
  rw [State.trappedBy, mem_trappedKinds, EventRecord.trapped, State.Traps, ← event_occurred_iff]
  simp [and_assoc, imp_iff_not_or]

/-- Some exception is trapped unless none is. -/
theorem trappedBy_isEmpty_iff {p : State} {st : SuppliedStep} :
    (p.trappedBy st).isEmpty = true ↔ ∀ x, ¬ p.Traps st x := by
  simp only [List.isEmpty_iff, List.eq_nil_iff_forall_not_mem, mem_trappedBy_iff]

section
variable {s p : State} {st : SuppliedStep} {q : List SuppliedStep}

/-- A well-formed supplied step that traps nothing completes. -/
theorem step_completes (h : s.RunsOther p) (hs : p.supplied = st :: q) (hw : st.wellFormed = true)
    (ht : ∀ x, ¬ p.Traps st x) : step s = .next (p.completeSupplied st q) := by
  rw [step_of_runsOther h hs, State.runStep, if_pos hw, if_pos (trappedBy_isEmpty_iff.mpr ht)]

/-- A well-formed supplied step that traps some exception ends in TrappedFPException. -/
theorem step_traps (h : s.RunsOther p) (hs : p.supplied = st :: q) (hw : st.wellFormed = true)
    (ht : ∃ x, p.Traps st x) : step s = p.trapSupplied st := by
  have some_trapped : ¬ (p.trappedBy st).isEmpty = true := by rwa [trappedBy_isEmpty_iff, not_forall_not]
  rw [step_of_runsOther h hs, State.runStep, if_pos hw, if_neg some_trapped]

/-- Where the PE runs no FPSR access, a next state is the completed supplied step. -/
theorem eq_completeSupplied_of_step (h : s.RunsOther p) (hs : p.supplied = st :: q) {u : State} (hu : step s = .next u) :
    u = p.completeSupplied st q := by
  rw [step_of_runsOther h hs] at hu
  obtain ⟨-, -, hu⟩ := runStep_next hu
  exact hu

end

/-- Settles O25: the step completes, and each bit of FPSR is its old value or the update's. -/
theorem eachEventSetsItsOwnBit : Obligations.EachEventSetsItsOwnBit := by
  intro s p st q e hrun hs hw hl ht
  obtain ⟨ts, rfl⟩ := exists_setTurns_of_peTurn hrun.1
  have bit : ∀ n, ((s.setTurns ts).completeSupplied st q).fpsr.getLsbD n =
      (s.fpsr.getLsbD n || (eventSet e s.inputs.fpcr s.inputs.flushToZeroEnabled).getLsbD n) := fun n => by
    rw [completeSupplied_fpsr, State.fpsrAfter, event_of_singleton hl, getLsbD_updateFpsr]
    rfl
  refine ⟨_, step_completes hrun hs hw ht, ?_, ?_, ?_, ?_, ?_, ?_, ?_, fun n hn => ?_⟩
  case refine_8 => rw [bit, getLsbD_eventSet_of_not_cumulative _ _ _ hn, Bool.or_false]
  all_goals
    rw [FpsrField.of, bit, getLsbD_eventSet]
    simp [FpsrField.of, FpsrField.bit]

/-- QC after the update (R82). -/
theorem qc_updateFpsr (ev : EventRecord) (f : FPCR) (ftz : Bool) (w : Word) :
    FpsrField.of (updateFpsr ev f ftz w) .qc = (FpsrField.of w .qc || ev.sat) := by
  simp only [FpsrField.of, FpsrField.bit, getLsbD_updateFpsr, getLsbD_eventSet_qc]

/-- QC after a trapped exception is the same, whatever is drawn (R82). -/
theorem qc_updateFpsrTrapped (ev : EventRecord) (f : FPCR) (ftz : Bool) (draw w : Word) :
    FpsrField.of (updateFpsrTrapped ev f ftz draw w) .qc = (FpsrField.of w .qc || ev.sat) := by
  simp only [FpsrField.of, FpsrField.bit, getLsbD_updateFpsrTrapped, getLsbD_eventSet_qc]
  cases ev.sat <;> simp

/-- A supplied step that raises no floating-point exception traps none. -/
theorem not_traps_of_no_exception {p : State} {st : SuppliedStep} (h : st.event.anyException = false) (x : FPException) :
    ¬ p.Traps st x := by
  rintro ⟨occurs, -⟩
  rw [← event_occurred_iff, (EventRecord.anyException_eq_false_iff _).mp h x] at occurs
  cases occurs

/-- Settles O26: both updates OR `Sat` into QC, and a step that saturates raises no exception that could set another bit. -/
theorem saturationSetsQC : Obligations.SaturationSetsQC := by
  intro s p st q e hrun hs hw hl
  obtain ⟨ts, rfl⟩ := exists_setTurns_of_peTurn hrun.1
  have event : st.event = e := event_of_singleton hl
  have qc : FpsrField.of ((s.setTurns ts).completeSupplied st q).fpsr .qc = (FpsrField.of s.fpsr .qc || e.sat) := by
    rw [completeSupplied_fpsr, State.fpsrAfter, event]
    exact qc_updateFpsr ..
  refine ⟨fun u hu => ?_, fun k w a hf => ?_, fun hsat => ?_⟩
  · rwa [eq_completeSupplied_of_step hrun hs hu]
  · by_cases ht : ∃ x, (s.setTurns ts).Traps st x
    · rw [step_traps hrun hs hw ht, State.trapSupplied, event] at hf
      cases hf
      exact qc_updateFpsrTrapped ..
    · rw [step_completes hrun hs hw (not_exists.mp ht)] at hf
      cases hf
  · have quiet : e.anyException = false := by
      simp only [SuppliedStep.wellFormed, hl, List.all_cons, Bool.and_eq_true] at hw
      obtain ⟨⟨⟨agrees, -⟩, -⟩, -⟩ := hw
      exact EventRecord.anyException_of_sat agrees hsat
    refine ⟨_, step_completes hrun hs hw (not_traps_of_no_exception (event ▸ quiet)), ?_, fun n hn => ?_⟩
    · rw [qc, hsat, Bool.or_true]
    · rw [completeSupplied_fpsr, State.fpsrAfter, event, getLsbD_updateFpsr, getLsbD_eventSet_of_no_exception _ _ quiet,
        decide_eq_false hn, Bool.and_false, Bool.or_false]
      rfl

/-- Settles O28: the fault's FPSR is the old one, QC as R82 says, and drawn bits of exceptions that occur and are not trapped. -/
theorem trappedExceptionEndsTheStep : Obligations.TrappedExceptionEndsTheStep := by
  intro s p st q hrun hs hw ht
  obtain ⟨ts, rfl⟩ := exists_setTurns_of_peTurn hrun.1
  have not_trapped_iff (x : FPException) :
      st.event.trapped s.inputs.fpcr s.inputs.flushToZeroEnabled x = false ↔ ¬ (s.setTurns ts).Traps st x := by
    rw [← mem_trappedBy_iff, State.trappedBy, mem_trappedKinds, Bool.not_eq_true]
    rfl
  refine ⟨_, _, step_traps hrun hs hw ht, fun x => mem_trappedBy_iff, fun x hx => ?_, fun n hn => ?_, fun n hn => ?_, ?_⟩
  · have own : st.event.trapped s.inputs.fpcr s.inputs.flushToZeroEnabled x = true := by
      rw [← Bool.not_eq_false, not_trapped_iff, not_not]
      exact hx
    have not_qc : x.field.bit ≠ 27 := by cases x <;> decide
    simp [FpsrField.of, getLsbD_updateFpsrTrapped, getLsbD_eventSet_field, own, not_qc]
  · simp [getLsbD_updateFpsrTrapped, hn]
  · rw [getLsbD_updateFpsrTrapped, Bool.or_eq_true, Bool.or_eq_true, Bool.and_eq_true, getLsbD_eventSet_iff] at hn
    rcases hn with (hold | ⟨⟨x, occurs, untrapped, hbit⟩ | ⟨hsat, h27⟩, -⟩) | hqc
    · exact .inl hold
    · exact .inr (.inl ⟨x, (event_occurred_iff st x).mp occurs, (not_trapped_iff x).mp untrapped, hbit⟩)
    · exact .inr (.inr ⟨event_sat st ▸ hsat, h27⟩)
    · rw [Bool.and_eq_true, decide_eq_true_eq, event_sat] at hqc
      exact .inr (.inr hqc)
  · rw [qc_updateFpsrTrapped, event_sat]
    rfl

end Sys2Proof.Machine
end

section
/-! PROOF. FPSR and the supplied steps as parts of the state: which steps write one, and which read one (R74, R83, R85, R88). -/

namespace Sys2Proof.Machine

/-! ### A step from a state with one part replaced -/

/-- An update of the state that leaves the turns is seen by the PE's turn as such. -/
theorem peTurn_update {s p : State} (g : State → State) (turns : (g s).turns = s.turns)
    (comm : ∀ q, (g s).setTurns q = g (s.setTurns q)) (h : s.peTurn = some p) : (g s).peTurn = some (g p) := by
  unfold State.peTurn at h
  split at h
  · cases h
    exact peTurn_of_turns_nil (turns.trans ‹_›)
  · cases h
    rw [peTurn_of_turns_pe (turns.trans ‹_›), comm]
  · cases h

/-- Which instruction runs does not depend on FPSR (R88). -/
theorem State.Runs.setFpsr {s p : State} {i : Instr} (h : s.Runs p i) (w : Word) : (s.setFpsr w).Runs (p.setFpsr w) i :=
  ⟨peTurn_update (·.setFpsr w) rfl (fun _ => rfl) h.1, h.2⟩

theorem State.RunsOther.setFpsr {s p : State} (h : s.RunsOther p) (w : Word) : (s.setFpsr w).RunsOther (p.setFpsr w) :=
  ⟨peTurn_update (·.setFpsr w) rfl (fun _ => rfl) h.1, h.2⟩

/-- Nor does it depend on what the surrounding model supplies. -/
theorem State.RunsOther.setSupplied {s p : State} (h : s.RunsOther p) (l : List SuppliedStep) :
    (s.setSupplied l).RunsOther (p.setSupplied l) :=
  ⟨peTurn_update (·.setSupplied l) rfl (fun _ => rfl) h.1, h.2⟩

/-- The PE does not run an FPSR access and another instruction at once. -/
theorem not_runs_of_runsOther {s p : State} (h : s.RunsOther p) (p' : State) (i : Instr) : ¬ s.Runs p' i := by
  obtain ⟨hp, bytes, e, hf, hd⟩ := h
  rintro ⟨hp', bytes', rest, hf', hd'⟩
  cases hp.symm.trans hp'
  cases hf.symm.trans hf'
  cases hd.symm.trans hd'

/-! ### The completed supplied step as one update of the state -/

/-- A list of register writes replaces the register file alone. -/
theorem writeXs_eq_setX (s : State) (ws : List (RegNum × Word)) : s.writeXs ws = s.setX (s.writeXs ws).x := by
  induction ws generalizing s with
  | nil => rfl
  | cons w rest ih =>
    rw [State.writeXs, ih (s.writeX w.1 w.2), State.setX_x]
    unfold State.writeX
    split <;> rfl

/-- A completed step with every field it leaves. -/
theorem completeSupplied_eq (s : State) (st : SuppliedStep) (q : List SuppliedStep) :
    s.completeSupplied st q =
      { s with
        fpsr := s.fpsrAfter st, pstate := s.pstate.setCompare st.compare, x := (s.writeXs st.xWrites).x, pc := st.nextPC,
        supplied := q } := by
  have regs : ((((s.setFpsr (s.fpsrAfter st)).setPstate (s.pstate.setCompare st.compare)).writeXs st.xWrites)).x
      = (s.writeXs st.xWrites).x := State.writeXs_x_congr _ rfl
  rw [State.completeSupplied, writeXs_eq_setX, regs]
  rfl

/-- A completed step sees FPSR only to update it (R88). -/
theorem completeSupplied_setFpsr (s : State) (w : Word) (st : SuppliedStep) (q : List SuppliedStep) :
    (s.setFpsr w).completeSupplied st q = (s.completeSupplied st q).setFpsr ((s.setFpsr w).fpsrAfter st) := by
  have regs : ((s.setFpsr w).writeXs st.xWrites).x = (s.writeXs st.xWrites).x := State.writeXs_x_congr _ rfl
  rw [completeSupplied_eq, completeSupplied_eq, regs]
  rfl

/-- Two supplied steps with the same events and the same results, each at the head of the supply, run alike (R83). -/
theorem runStep_congr {p : State} {st st' : SuppliedStep} (l q : List SuppliedStep) (hw : st.wellFormed = true)
    (hw' : st'.wellFormed = true) (event : st'.event = st.event) (compare : st'.compare = st.compare)
    (xWrites : st'.xWrites = st.xWrites) (nextPC : st'.nextPC = st.nextPC) :
    (p.setSupplied l).runStep st' q = p.runStep st q := by
  have regs : ((p.setSupplied l).writeXs st.xWrites).x = (p.writeXs st.xWrites).x := State.writeXs_x_congr _ rfl
  have complete : (p.setSupplied l).completeSupplied st' q = p.completeSupplied st q := by
    rw [completeSupplied_eq, completeSupplied_eq, State.fpsrAfter, event, compare, xWrites, nextPC, regs]
    rfl
  have kinds : (p.setSupplied l).trappedBy st' = p.trappedBy st := by
    rw [State.trappedBy, event]
    rfl
  have trap : (p.setSupplied l).trapSupplied st' = p.trapSupplied st := by
    rw [State.trapSupplied, kinds, event]
    rfl
  rw [State.runStep, State.runStep, if_pos hw, if_pos hw', kinds, complete, trap]

/-- Settles O27: both steps have the same event record, and run alike. -/
theorem lanesCountTogether : Obligations.LanesCountTogether := by
  intro s p st st' q hrun hs hw hw' hcompare hx hpc hlanes hsat
  have event : st'.event = st.event := by
    refine EventRecord.ext_occurred (fun x => ?_) (by rw [event_sat, event_sat, hsat])
    rw [Bool.eq_iff_iff, event_occurred_iff, event_occurred_iff]
    exact hlanes x
  rw [step_of_runsOther (hrun.setSupplied (st' :: q)) rfl, step_of_runsOther hrun hs]
  exact runStep_congr _ q hw hw' event hcompare hx hpc

/-! ### Who writes FPSR (R74, R85) -/

/-- Where the PE runs no FPSR access, a next state is that of some supplied step, completed. -/
theorem exists_completeSupplied_of_step {s p u : State} (h : s.RunsOther p) (hu : step s = .next u) :
    ∃ st q, u = p.completeSupplied st q := by
  obtain ⟨hp, bytes, e, hf, hd⟩ := h
  rw [step_of_peTurn hp, stepPE_eq_runSurrounding hf hd] at hu
  obtain ⟨st, q, -, -, -, rfl⟩ := runSurrounding_next hu
  exact ⟨st, q, rfl⟩

/-- A step that is no reset and no `MSR FPSR, <Xt>` updates FPSR by some event record, that of no event where no rule writes it. -/
theorem exists_updateFpsr_of_step {s u : State} (hreset : ¬ s.Resets) (hmsr : ∀ p t, ¬ s.Runs p (.msrFpsr t))
    (hu : step s = .next u) : ∃ ev f ftz, u.fpsr = updateFpsr ev f ftz s.fpsr := by
  by_cases hother : ∃ p, s.RunsOther p
  · obtain ⟨p, hrun⟩ := hother
    obtain ⟨st, q, rfl⟩ := exists_completeSupplied_of_step hrun hu
    obtain ⟨ts, rfl⟩ := exists_setTurns_of_peTurn hrun.1
    exact ⟨st.event, _, _, completeSupplied_fpsr ..⟩
  · refine ⟨EventRecord.none, s.inputs.fpcr, s.inputs.flushToZeroEnabled, ?_⟩
    rw [updateFpsr_of_no_event _ _ rfl rfl]
    exact fpsrStableUntilWritten s u hreset hmsr (not_exists.mp hother) hu

/-- Settles O30: the update clears nothing, and without an event it changes nothing. -/
theorem cumulativeBitsAreSticky : Obligations.CumulativeBitsAreSticky := by
  intro s u f hf hreset hmsr hu
  refine ⟨fun hset => ?_, fun p st q hrun hs hquiet => ?_⟩
  · obtain ⟨ev, en, ftz, hfpsr⟩ := exists_updateFpsr_of_step hreset hmsr hu
    rw [FpsrField.of, hfpsr, getLsbD_updateFpsr, Bool.or_eq_true]
    exact .inl hset
  · obtain ⟨ts, rfl⟩ := exists_setTurns_of_peTurn hrun.1
    have exceptions : st.event.anyException = false := by
      rw [EventRecord.anyException_eq_false_iff]
      intro x
      rw [Bool.eq_false_iff, ne_eq, event_occurred_iff]
      rintro ⟨e, he, hx⟩
      obtain ⟨quiet, -⟩ := hquiet e he
      rw [(EventRecord.anyException_eq_false_iff e).mp quiet x] at hx
      cases hx
    have sat : st.event.sat = false := by
      rw [event_sat, List.any_eq_false]
      exact fun e he => by simp [(hquiet e he).2]
    rw [eq_completeSupplied_of_step hrun hs hu, completeSupplied_fpsr, State.fpsrAfter,
      updateFpsr_of_no_event _ _ exceptions sat]
    rfl

/-- Settles O31: no event sets bits 31:28, and a comparison completes with its flags in PSTATE. -/
theorem conditionFlagsOnlyByMsr : Obligations.ConditionFlagsOnlyByMsr := by
  intro s u hreset hu
  have flags (hmsr : ∀ p t, ¬ s.Runs p (.msrFpsr t)) : u.fpsr.extractLsb' 28 4 = s.fpsr.extractLsb' 28 4 := by
    obtain ⟨ev, en, ftz, hfpsr⟩ := exists_updateFpsr_of_step hreset hmsr hu
    rw [hfpsr, extractLsb'_updateFpsr]
  refine ⟨flags, fun p st q f hrun hs hcompare => ?_⟩
  have kept := flags fun p' t => not_runs_of_runsOther hrun p' (.msrFpsr t)
  obtain rfl := eq_completeSupplied_of_step hrun hs hu
  obtain ⟨hn, hz, hc, hv⟩ := PState.setCompare_some p.pstate f
  rw [completeSupplied_pstate, hcompare]
  refine ⟨hn, hz, hc, hv, kept, fun henable hio => ?_⟩
  obtain ⟨io, -⟩ := ofLanes_eq_any st.lanes
  have occurs : st.event.io = true := io.trans hio
  rw [completeSupplied_fpsr, State.fpsrAfter, FpsrField.of, getLsbD_updateFpsr, getLsbD_eventSet]
  simp [FpsrField.bit, occurs, henable]

/-! ### Who reads FPSR (R88) -/

/-- An action of the environment does not read FPSR. -/
theorem applyAction_setFpsr (a : EnvAction) (s : State) (w : Word) :
    ∃ w', (s.setFpsr w).applyAction a = (s.applyAction a).setFpsr w' := by
  cases a with
  | reset k d => exact ⟨d.fpsr, rfl⟩
  | changeInputs i p => exact ⟨w, rfl⟩

/-- Nor does an MSR, which completes with its register in FPSR or is trapped. -/
theorem execMsr_setFpsr {t : RegNum} {s u : State} (h : exec (.msrFpsr t) s = .next u) (w : Word) :
    ∃ w', exec (.msrFpsr t) (s.setFpsr w) = .next (u.setFpsr w') := by
  rcases exec_next h with ⟨enabled, rfl⟩ | ⟨refused, _, _, -, -, rfl⟩
  · have enabled' : (s.setFpsr w).accessEnabled := (accessEnabled_congr rfl rfl rfl).mpr enabled
    exact ⟨s.readX t, exec_of_accessEnabled enabled' _⟩
  · obtain ⟨-, blind⟩ := refusedAccessIsBlind (.msrFpsr t) (.msrFpsr t) s refused
    obtain ⟨-, taken, -⟩ := blind w s.x
    exact ⟨w, taken _ h⟩

/-- Nor does a supplied step, which only updates it. -/
theorem runStep_setFpsr {s u : State} {st : SuppliedStep} {q : List SuppliedStep} (h : s.runStep st q = .next u) (w : Word) :
    ∃ w', (s.setFpsr w).runStep st q = .next (u.setFpsr w') := by
  obtain ⟨hw, ht, rfl⟩ := runStep_next h
  have untrapped : ((s.setFpsr w).trappedBy st).isEmpty = true := ht
  exact ⟨_, by rw [State.runStep, if_pos hw, if_pos untrapped, completeSupplied_setFpsr]⟩

/-- Settles O33: by the three ways a step answers a next state, an MRS set aside. -/
theorem onlyMrsReadsFpsr : Obligations.OnlyMrsReadsFpsr := by
  intro s u w hmrs hu
  rcases step_next hu with ⟨a, q, hq, rfl⟩ | ⟨p, i, hrun, hx⟩ | ⟨p, st, q, hrun, hs, -⟩
  · obtain ⟨w', hw'⟩ := applyAction_setFpsr a (s.setTurns q) w
    exact ⟨w', (step_of_environment (s := s.setFpsr w) hq).trans (congrArg _ hw')⟩
  · cases i with
    | mrsFpsr t => exact absurd hrun (hmrs p t)
    | msrFpsr t =>
      rw [step_of_runs (hrun.setFpsr w)]
      exact execMsr_setFpsr hx w
  · rw [step_of_runsOther hrun hs] at hu
    rw [step_of_runsOther (hrun.setFpsr w) hs]
    exact runStep_setFpsr hu w

end Sys2Proof.Machine
end

section
/-! PROOF. What a trapped access does: terminal, it reports; taken, it saves and enters the target level (R89, R95, R103). -/

namespace Sys2Proof.Machine

/-! ### The two continuations of a trap (R95) -/

theorem systemAccessTrap_of_terminal {s : State} (h : s.config.trapEntry = .terminal) (t : TrapTarget) (ec : BitVec 6) :
    s.systemAccessTrap t ec = .fault (.systemAccessTrap t ec s.pc) := by
  simp only [State.systemAccessTrap, h]

theorem systemAccessTrap_of_taken {s : State} (h : s.config.trapEntry = .taken) (t : TrapTarget) (ec : BitVec 6) :
    s.systemAccessTrap t ec = .next (s.takeException t ec) := by
  simp only [State.systemAccessTrap, h]

/-! ### The terminal trap -/

/-- A trap fault that ends an access reports the trap the check decided, at the pc. -/
theorem checkAccess_of_exec_systemAccessTrap {i : Instr} {s : State} {t : TrapTarget} {ec : BitVec 6} {a : Word}
    (h : exec i s = .fault (.systemAccessTrap t ec a)) : s.checkAccess = .trap t ec ∧ a = s.pc := by
  rw [exec_eq_accessFpsr] at h
  cases e : s.checkAccess with
  | allow => rw [accessFpsr_allow e] at h; cases h
  | undef => rw [accessFpsr_undef e] at h; cases h
  | trap t' ec' =>
    rw [accessFpsr_trap e] at h
    cases he : s.config.trapEntry with
    | taken => rw [systemAccessTrap_of_taken he] at h; cases h
    | terminal => rw [systemAccessTrap_of_terminal he] at h; cases h; exact ⟨rfl, rfl⟩

/-- An access that the check traps is not enabled (R107). -/
theorem not_accessEnabled_of_check_trap {s : State} {t : TrapTarget} {ec : BitVec 6} (h : s.checkAccess = .trap t ec) :
    ¬ s.accessEnabled := by
  rw [← checkAccess_eq_allow_iff, h]
  nofun

/-- The check traps with code 0x07 or 0x00 only (R70). -/
theorem code_of_check_trap {s : State} {t : TrapTarget} {ec : BitVec 6} (h : s.checkAccess = .trap t ec) :
    ec = 0x07 ∨ ec = 0x00 := by
  obtain ⟨traps, -⟩ := checkConsequences s.config s.pstate.el s.inputs
  obtain ⟨code, -⟩ := traps t ec h
  exact code.imp_right And.left

/-- Settles O23: the terminal continuation is the fault itself, and an access raises it from the trap arm of the check alone. -/
theorem terminalTrapReports : Obligations.TerminalTrapReports := by
  intro i s hterminal
  refine ⟨fun t ec h => ?_, fun t ec a h => ?_⟩
  · exact (exec_of_check_trap h i).trans (systemAccessTrap_of_terminal hterminal t ec)
  · obtain ⟨check, pc⟩ := checkAccess_of_exec_systemAccessTrap h
    exact ⟨pc, code_of_check_trap check, check, not_accessEnabled_of_check_trap check⟩

/-! ### The syndrome -/

/-- EC stands in bits 31:26 of the syndrome, above IL and the ISS (R103). -/
theorem syndrome_extractLsb'_ec (ec : BitVec 6) : (syndrome ec).extractLsb' 26 6 = ec := by
  ext n hn
  have position : 26 + n - 25 - 1 = n := by omega
  rw [BitVec.getElem_extractLsb', syndrome, BitVec.getLsbD_append, if_neg (by omega), BitVec.getLsbD_append,
    if_neg (by omega), BitVec.getLsbD_append, position, if_pos hn, BitVec.getLsbD_eq_getElem]

/-- IL is bit 25 of the syndrome, the first above the ISS (R103). -/
theorem syndrome_getLsbD_il (ec : BitVec 6) : (syndrome ec).getLsbD 25 = true := by
  rw [syndrome, BitVec.getLsbD_append, if_neg (by decide), BitVec.getLsbD_append, if_pos (by decide)]
  rfl

/-! ### The trap taken -/

/-- The bank of the level entered holds what the trap saves, its vector kept (R103). -/
theorem takeException_exc_get_routeTrap (t : TrapTarget) (ec : BitVec 6) (s : State) :
    (s.takeException t ec).exc.get (s.inputs.routeTrap t)
      = (s.exc.get (s.inputs.routeTrap t)).saveTrap s.pc s.pstate ec := by
  rw [State.takeException_exc, ExcRegs.get_set, if_pos rfl]

/-- Settles O24: the next state is `takeException`, which writes the bank of the routed level, PSTATE.EL and the pc. -/
theorem takenTrapSavesAndEnters : Obligations.TakenTrapSavesAndEnters := by
  intro i s t ec htaken h
  refine ⟨_, s.inputs.routeTrap t, (exec_of_check_trap h i).trans (systemAccessTrap_of_taken htaken t ec), rfl, ?_⟩
  rw [takeException_exc_get_routeTrap]
  refine ⟨rfl, rfl, syndrome_extractLsb'_ec ec, syndrome_getLsbD_il ec, ?_, ?_, rfl, rfl, fun b hb => ?_, rfl, rfl, rfl, rfl, rfl,
    rfl, rfl, rfl⟩
  · rintro rfl; rfl
  · rintro rfl; rfl
  · rw [State.takeException_exc, ExcRegs.get_set, if_neg hb]

end Sys2Proof.Machine
end

section
/-! PROOF. Writing back what was read, and the check against R107's conditions (R107, R110, R111). -/

namespace Sys2Proof.Machine

/-- Settles O14: MSR stores what MRS read, whose fields are those stored at the read, whatever FPSR has become since. -/
theorem writeBackRestoresAndLoses : Obligations.WriteBackRestoresAndLoses := by
  intro t s p hs hp ht _
  refine ⟨_, exec_of_accessEnabled hs (.mrsFpsr t), fun kept =>
    ⟨_, exec_of_accessEnabled hp (.msrFpsr t), fun f hf => ?_⟩⟩
  have stored : (Instr.act (.msrFpsr t) p).advancePc.fpsr = s.readFpsr := kept.trans (readX_after_mrs s ht)
  rw [stored]
  exact field_readFpsr hf

/-- Settles O16: level by level, the arms of the check are passed exactly where R107's conditions hold. -/
theorem allowedExactlyWhenEnabled : Obligations.AllowedExactlyWhenEnabled :=
  checkAccess_eq_allow_iff

end Sys2Proof.Machine
end

section
/-! PROOF. A word placed where the machine fetches, and the first instruction after reset (R48, R55, R106). -/

namespace Sys2Proof.Machine

/-- An address with its low two bits cleared is aligned (R48). -/
theorem aligned_clear_low_bits (a : Word) : Aligned (a &&& ~~~3#64) := by
  show (a.toNat &&& (~~~3#64).toNat) % 2 ^ 2 = 0
  rw [Nat.and_mod_two_pow, show (~~~3#64).toNat % 2 ^ 2 = 0 from rfl, Nat.and_zero]

/-- A placed instruction is the one the PE runs next, unless the text then stands across the top (R37). -/
theorem runs_placeWord (s : State) (i : Instr) (ht : Memory.acrossTop (s.placeWord (encodeWord i)).mem = false) :
    (s.placeWord (encodeWord i)).Runs (s.placeWord (encodeWord i)) i := by
  have aligned : Aligned (s.placeWord (encodeWord i)).pc := aligned_clear_low_bits s.pc
  have fits : (s.placeWord (encodeWord i)).pc.toNat + 4 ≤ 2 ^ 64 := by
    have := (s.placeWord (encodeWord i)).pc.isLt
    have : (s.placeWord (encodeWord i)).pc.toNat % 4 = 0 := aligned
    omega
  have fetched : (s.placeWord (encodeWord i)).fetch = .ok (encode i) :=
    fetch_eq_ok aligned ht (Memory.readWordBytes_writeBytes _ _ _ _ s.mem fits)
  exact ⟨peTurn_of_turns_nil rfl, _, _, fetched, decodeOfEncode i []⟩

/-- Loading an instruction's word by its number is placing the word. -/
theorem withFetchWord_encodeWord (s : State) (i : Instr) :
    s.withFetchWord 32 (encodeWord i).toNat = s.placeWord (encodeWord i) := by
  rw [State.withFetchWord, Nat.mod_eq_of_lt (encodeWord i).isLt, BitVec.ofNat_toNat, BitVec.setWidth_eq]

/-- In an empty text a word at address 0 leaves the top of the address space free. -/
theorem acrossTop_reset_placeWord (w : InstrWord) : Memory.acrossTop (State.reset.placeWord w).mem = false :=
  Memory.acrossTop_writeWords_eq_false (a := 0) (ws := [w]) (by simp) (by simp)

/-- The reset values enable the access (log 4). -/
theorem accessEnabled_reset : State.reset.accessEnabled := (checkAccess_eq_allow_iff _).mp rfl

/-- Settles O39: the instruction is placed at pc 0, the PE runs it, and placing it leaves the access enabled. -/
theorem firstInstructionAfterReset : Obligations.FirstInstructionAfterReset := by
  refine ⟨rfl, rfl, accessEnabled_reset, fun i => ?_⟩
  have enabled : (State.reset.placeWord (encodeWord i)).accessEnabled :=
    (accessEnabled_congr rfl rfl rfl).mpr accessEnabled_reset
  have completes := (step_of_runs (runs_placeWord State.reset i (acrossTop_reset_placeWord _))).trans
    (exec_of_accessEnabled enabled i)
  rw [withFetchWord_encodeWord]
  exact ⟨_, completes, pc_after_act i _⟩

end Sys2Proof.Machine
end
